-- ==== Sys2Proof/Word.lean ====
section
/-! DEFINITION. The word types of Intellistep CORE (spec 00_scope.md R8, R9, R12, R14). -/

namespace Sys2Proof

/-- One byte on the transport (R9 `u8`). -/
abbrev Byte := BitVec 8

/-- One wire word or sensor register (R8: 16 bits). -/
abbrev Word := BitVec 16

/-- A 32-bit register: `u32` and `i32` (R9). -/
abbrev U32 := BitVec 32

/-- A 64-bit command word or response (R90, R93). -/
abbrev Long := BitVec 64

/-- A sensor register number (R96 `REG`, 10 bits). -/
abbrev RegNum := BitVec 10

/-- An Fx value: the integer `n` standing for `n x 2^-16` (R12). -/
abbrev Fx := Int

end Sys2Proof
end

