-- ==== Sys2Proof/Syntax.lean ====
section
/-! DEFINITION. The instructions of CORE: one constructor for each row of spec/opcode_table.json
(30_encoding.md R91 and R94). Operand codes the spec gives names to are inductive types, so the machine
never sees a raw encoding. -/

namespace Sys2Proof

/-- The five filter channels (10_state.md R26). -/
inductive Chan where
  | angle
  | absAngle
  | speed
  | accel
  | temp
deriving DecidableEq, Repr

/-- A step direction: `+1` or `-1` (10_state.md R25). -/
inductive Dir where
  | plus
  | minus
deriving DecidableEq, Repr

/-- The motor operating states (10_state.md R31, R35). -/
inductive MotorState where
  | enabled
  | disabled
  | forcedEnabled
  | forcedDisabled
  | overtemperature
deriving DecidableEq, Repr

/-- The elements of the transaction buffer that TXBLD and TXBRD name (42_register_protocol.md R166). -/
inductive TxbElem where
  | cmd
  | data (i : Fin 15)
  | safety
  | count
deriving DecidableEq, Repr

/-- The 32 host commands and the 4 events. -/
inductive Instr where
  | csenter
  | csexit
  | macfg (ch : Chan) (cap : Word)
  | maadd (ch : Chan) (sample : U32)
  | maval (ch : Chan)
  | rdreg (safe : Bool) (reg : RegNum)
  | rdburst (safe : Bool) (reg : RegNum) (count : BitVec 4)
  | wrreg (reg : RegNum) (value : Word)
  | getbf (idx : Byte)
  | setbf (idx : Byte) (value : Word)
  | valsafe
  | sreset
  | txbld (elem : TxbElem) (value : Word)
  | txbrd (elem : TxbElem)
  | angle (useAverage : Bool)
  | arev
  | aangle
  | speed
  | accel
  | temp
  | zero
  | setofs (offset : U32)
  | setstate (state : MotorState) (clearErrors : Bool)
  | getstate
  | setcur (mA : Word)
  | getcur
  | sched (dir : Dir) (rate : Word) (count : U32)
  | setdes (pos : U32)
  | setpos (pos : U32)
  | geterr
  | getpos
  | cten (enable : Bool)
  | evStepedge
  | evSched
  | evTick
  | evFine
deriving DecidableEq, Repr

end Sys2Proof
end

