-- ==== Sys2Proof/Config.lean ====
section
/-! DEFINITION. The configuration `CFG.*` of CORE (00_scope.md R6, R7), its well-formedness (93_implementation_defined.md
U5, U6), the defaults of R7, and the free values of the model. A configuration is plain data; the model
takes it as the field `cfg` of State (log 1). -/

namespace Sys2Proof

/-- Five like things, one for each filter channel (10_state.md R26). -/
structure Bank (α : Type) where
  angle : α
  absAngle : α
  speed : α
  accel : α
  temp : α
deriving DecidableEq, Repr

/-- The entry of one channel. -/
def Bank.get {α : Type} (b : Bank α) : Chan → α
  | .angle => b.angle
  | .absAngle => b.absAngle
  | .speed => b.speed
  | .accel => b.accel
  | .temp => b.temp

/-- Replace the entry of one channel. -/
def Bank.set {α : Type} (b : Bank α) (ch : Chan) (x : α) : Bank α :=
  match ch with
  | .angle => { b with angle := x }
  | .absAngle => { b with absAngle := x }
  | .speed => { b with speed := x }
  | .accel => { b with accel := x }
  | .temp => { b with temp := x }

/-- The access modes of a bit field, codes 0 to 5 (30_encoding.md R103). -/
inductive AccessMode where
  | read
  | write
  | readWrite
  | readUpdate
  | writeUpdate
  | reserved
deriving DecidableEq, Repr

/-- A bit-field descriptor (30_encoding.md R101). -/
structure Descriptor where
  mode : AccessMode
  reg : RegNum
  mask : Word
  offset : BitVec 4
  dflt : Word
  slot : Byte
deriving DecidableEq, Repr

/-- `CFG.CORRECTION_POLICY` (R6). -/
inductive CorrectionPolicy where
  | direct
  | pid
deriving DecidableEq, Repr

/-- `CFG.SPEED_STRATEGY` (R6). -/
inductive SpeedStrategy where
  | finiteDifference
  | speedRegister
deriving DecidableEq, Repr

/-- `CFG.PID_LAW` (R7): the default law of 45_correction_scheduler.md R240, or law number `n` of all the
others, which is the free function `Config.otherPidLaw n` (log 3). -/
inductive PidLaw where
  | textbook
  | other (n : Nat)
deriving DecidableEq, Repr

/-- `CFG.SPEED_SCALE[0..3]` (R7), where a configuration gives it. -/
structure SpeedScale where
  mode0 : Fx
  mode1 : Fx
  mode2 : Fx
  mode3 : Fx
deriving DecidableEq, Repr

/-- The configuration parameters, in the order of R6 and R7. -/
structure Cfg where
  correctionPolicy : CorrectionPolicy
  speedStrategy : SpeedStrategy
  schedPresent : Bool
  crcSeed : Byte
  crcPoly : Byte
  safetyBitSys : Nat
  safetyBitIf : Nat
  safetyBitInv : Nat
  safetyErrLevel : Bool
  blankWord : Word
  safetyResetWord : Word
  safetyResetOnIface : Bool
  nslots : Nat
  /-- `CFG.SLOT_OF` as a finite table: the first pair whose register matches gives the slot. -/
  slotTable : List (RegNum × Byte)
  fieldTable : List Descriptor
  regAngle : RegNum
  regSpeed : RegNum
  regRev : RegNum
  regTemp : RegNum
  revShift : Nat
  tempShift : Nat
  maMaxCap : Nat
  maCap : Bank Nat
  /-- `CFG.MAX_RETRIES`: `none` is `Unbounded`. -/
  maxRetries : Option Nat
  tempOffset : Fx
  tempDiv : Fx
  otShutdown : Fx
  otClear : Fx
  otWarn : Fx
  otInterval : U32
  otCurrentStep : Word
  faultTimeS : Fx
  correctionFreqHz : Nat
  faultStepThreshold : Nat
  pidLaw : PidLaw
  kp : Fx
  ki : Fx
  kd : Fx
  pidILimit : Nat
  pidMinFreq : Nat
  freqMax : Nat
  schedUpdateDesired : Bool
  /-- `CFG.SPEED_SCALE`: `none` where the configuration leaves it OPEN (log 2). -/
  speedScale : Option SpeedScale
  speedWordIdx : Nat
  modeWordIdx : Nat
  modeShift : Nat
  fxw : Nat
deriving DecidableEq, Repr

/-- `CFG.SLOT_OF` (R7). -/
def Cfg.slotOf (c : Cfg) (r : RegNum) : Option Byte :=
  (c.slotTable.find? (fun p => p.1 == r)).map (·.2)

/-- `CFG.NFIELDS` (R7): the number of entries of the field table. -/
def Cfg.nfields (c : Cfg) : Nat := c.fieldTable.length

/-- Bit `offset` is the lowest set bit of the mask, and the mask is not zero (30_encoding.md R102). -/
def Descriptor.maskOk (f : Descriptor) : Bool :=
  f.mask.getLsbD f.offset.toNat &&
    (List.range f.offset.toNat).all (fun i => !f.mask.getLsbD i)

/-- A descriptor is well formed (30_encoding.md R102); `mode <= 5` holds by its type. -/
def Descriptor.wf (c : Cfg) (f : Descriptor) : Bool :=
  f.mask != 0 && f.maskOk && decide (f.slot.toNat < c.nslots) && (c.slotOf f.reg == some f.slot)

/-- The wire constraints of R7. -/
def Cfg.wfWire (c : Cfg) : Bool :=
  c.crcPoly.getLsbD 0 &&
  decide (8 ≤ c.safetyBitSys ∧ c.safetyBitSys ≤ 15) &&
  decide (8 ≤ c.safetyBitIf ∧ c.safetyBitIf ≤ 15) &&
  decide (8 ≤ c.safetyBitInv ∧ c.safetyBitInv ≤ 15) &&
  decide (c.safetyBitSys ≠ c.safetyBitIf ∧ c.safetyBitSys ≠ c.safetyBitInv ∧ c.safetyBitIf ≠ c.safetyBitInv)

/-- The cache and field-table constraints of R7 and R102. -/
def Cfg.wfCache (c : Cfg) : Bool :=
  decide (1 ≤ c.nslots ∧ c.nslots ≤ 256) &&
  c.slotTable.all (fun p => decide (p.2.toNat < c.nslots)) &&
  c.fieldTable.all (fun f => f.wf c) &&
  (c.slotOf c.regAngle).isSome && (c.slotOf c.regSpeed).isSome &&
  (c.slotOf c.regRev).isSome && (c.slotOf c.regTemp).isSome

/-- The filter and estimator constraints of R7: capacities, shifts that leave the field inside 16 bits, the divisor,
the burst indices and the stored Fx width. -/
def Cfg.wfEstimator (c : Cfg) : Bool :=
  decide (c.revShift + 9 ≤ 16) && decide (c.tempShift + 10 ≤ 16) &&
  decide (1 ≤ c.maMaxCap) &&
  [Chan.angle, .absAngle, .speed, .accel, .temp].all
    (fun ch => decide (1 ≤ c.maCap.get ch ∧ c.maCap.get ch ≤ c.maMaxCap)) &&
  decide (c.tempDiv ≠ 0) &&
  decide (c.speedWordIdx ≤ 3) && decide (c.modeWordIdx ≤ 3) && decide (c.modeShift ≤ 14) &&
  decide (48 ≤ c.fxw ∧ c.fxw ≤ 64)

/-- The fault-monitor and scheduler constraints of R7; `PID_I_LIMIT` has none. -/
def Cfg.wfControl (c : Cfg) : Bool :=
  decide (c.otClear < c.otShutdown) && decide (c.otWarn < c.otShutdown) &&
  decide (0 ≤ c.faultTimeS) && decide (0 < c.correctionFreqHz) && decide (1 ≤ c.faultStepThreshold) &&
  decide (0 < c.freqMax ∧ c.freqMax < 2 ^ 32)

/-- A configuration of this hardware (93_implementation_defined.md U5, U6). -/
def Cfg.wf (c : Cfg) : Bool :=
  c.wfWire && c.wfCache && c.wfEstimator && c.wfControl

/-- The default field table (30_encoding.md R104). -/
def Config.defaultFields : List Descriptor :=
  [ ⟨.read, 2, 0x7FFF, 0, 0, 2⟩,
    ⟨.read, 3, 0x7FFF, 0, 0, 3⟩,
    ⟨.read, 4, 0x01FF, 0, 0, 4⟩,
    ⟨.read, 5, 0x03FF, 0, 0, 5⟩,
    ⟨.readWrite, 6, 0xC000, 14, 0, 6⟩,
    ⟨.write, 6, 0x00F0, 4, 0, 6⟩,
    ⟨.reserved, 6, 0x000F, 0, 0, 6⟩ ]

/-- `CFG.SLOT_OF` by default: the identity on 0..15 (R7). -/
def Config.defaultSlots : List (RegNum × Byte) :=
  (List.range 16).map (fun n => (BitVec.ofNat 10 n, BitVec.ofNat 8 n))

/-- The spec defaults of R7, with the policy, strategy and presence that 95_test_vectors.md takes as default
(DESIGN CHOICE for the reset state, log 1). -/
def Config.default : Cfg where
  correctionPolicy := .direct
  speedStrategy := .finiteDifference
  schedPresent := true
  crcSeed := 0xFF
  crcPoly := 0x1D
  safetyBitSys := 14
  safetyBitIf := 13
  safetyBitInv := 12
  safetyErrLevel := true
  blankWord := 0xFFFF
  safetyResetWord := 0x8001
  safetyResetOnIface := false
  nslots := 16
  slotTable := Config.defaultSlots
  fieldTable := Config.defaultFields
  regAngle := 2
  regSpeed := 3
  regRev := 4
  regTemp := 5
  revShift := 0
  tempShift := 0
  maMaxCap := 256
  maCap := ⟨4, 4, 4, 4, 4⟩
  maxRetries := none
  tempOffset := 9961472
  tempDiv := 181928
  otShutdown := 5242880
  otClear := 4587520
  otWarn := 3932160
  otInterval := 1000000
  otCurrentStep := 100
  faultTimeS := 65536
  correctionFreqHz := 10
  faultStepThreshold := 100
  pidLaw := .textbook
  kp := 655360
  ki := 32768
  kd := 0
  pidILimit := 1000
  pidMinFreq := 0
  freqMax := 100000
  schedUpdateDesired := true
  speedScale := none
  speedWordIdx := 0
  modeWordIdx := 3
  modeShift := 14
  fxw := 64

/-- Free value (log 4): the two bytes `(r1, r0)` the sensor answers to exchange number `n` where the environment
lists no answer (20_memory.md R66: any two bytes). -/
opaque Config.sensorAnswer : Nat → Byte × Byte

/-- Free value (log 2): `CFG.SPEED_SCALE[m]` where the configuration leaves it OPEN (R7). -/
opaque Config.openSpeedScale : BitVec 2 → Fx

/-- Free value (log 3): the PID law number `n`: error, integrator and previous error to output, integrator and previous
error (R7: a total function of its arguments only). -/
opaque Config.otherPidLaw : Nat → Int → Int → Int → Fx × Int × BitVec 34

/-- Free value (log 28): what `pidInteg`, stored i32 (10_state.md R25), holds after an integrator outside 32 bits, which only a
`PID_I_LIMIT` of `2^31` or more lets through (45_correction_scheduler.md R240). -/
opaque Config.wideIntegrator : Int → U32

end Sys2Proof
end

