-- ==== Sys2Proof/WellFormed.lean ====
section
/-! DEFINITION. Which instructions have every operand in range (30_encoding.md R92). Ranges that a type of Syntax.lean already keeps
(channel 0..4, state code 0..4, buffer index 0..17, register number 0..1023) need no check here. -/

namespace Sys2Proof

/-- The transaction-buffer element takes this value (42_register_protocol.md R165: `idx = 17` takes 0..15). -/
def TxbElem.takes (e : TxbElem) (v : Word) : Bool :=
  match e with
  | .cmd => true
  | .data _ => true
  | .safety => true
  | .count => decide (v.toNat ≤ 15)

/-- Every operand of the instruction is in the range R91, R92 or its own rule gives, under a configuration. `SCHED` also
needs the scheduler to be present (R92). -/
def Instr.wf (c : Cfg) : Instr → Bool
  | .csenter => true
  | .csexit => true
  | .macfg _ cap => decide (1 ≤ cap.toNat ∧ cap.toNat ≤ c.maMaxCap)
  | .maadd _ _ => true
  | .maval _ => true
  | .rdreg _ _ => true
  | .rdburst _ _ count => decide (count ≠ 0)
  | .wrreg _ _ => true
  | .getbf idx => decide (idx.toNat < c.nfields)
  | .setbf idx _ => decide (idx.toNat < c.nfields)
  | .valsafe => true
  | .sreset => true
  | .txbld elem value => elem.takes value
  | .txbrd _ => true
  | .angle _ => true
  | .arev => true
  | .aangle => true
  | .speed => true
  | .accel => true
  | .temp => true
  | .zero => true
  | .setofs _ => true
  | .setstate _ _ => true
  | .getstate => true
  | .setcur _ => true
  | .getcur => true
  | .sched _ rate _ => c.schedPresent && decide (rate ≠ 0)
  | .setdes _ => true
  | .setpos _ => true
  | .geterr => true
  | .getpos => true
  | .cten _ => true
  | .evStepedge => true
  | .evSched => true
  | .evTick => true
  | .evFine => true

end Sys2Proof
end

