-- ==== Sys2Proof/Decode.lean ====
section
/-! DEFINITION. The decoder of command words and event vectors (30_encoding.md R90 to R94, R105, R106), total on any bits, and
after it the encoder, written from the same tables. -/

namespace Sys2Proof

/-! ### The fields of a command word (R90) -/

/-- `CW[63:56]`. -/
def cwOp (cw : Long) : Byte := cw.extractLsb' 56 8

/-- `CW[55:48]`. -/
def cwSel (cw : Long) : Byte := cw.extractLsb' 48 8

/-- `CW[47:32]`. -/
def cwA (cw : Long) : Word := cw.extractLsb' 32 16

/-- `CW[31:0]`. -/
def cwB (cw : Long) : U32 := cw.extractLsb' 0 32

/-- The bits that must be zero, by field (R91). -/
structure ZeroMask where
  sel : Byte
  a : Word
  b : U32
deriving DecidableEq, Repr

/-- The opcode map of R91: for each known opcode the bits that must be zero; `none` for an opcode that is no command. -/
def opcodeRow (op : Byte) : Option ZeroMask :=
  match op.toNat with
  | 0x01 => some ⟨0xFF, 0xFFFF, 0xFFFFFFFF⟩
  | 0x02 => some ⟨0xFF, 0xFFFF, 0xFFFFFFFF⟩
  | 0x10 => some ⟨0xF8, 0x0000, 0xFFFFFFFF⟩
  | 0x11 => some ⟨0xF8, 0xFFFF, 0x00000000⟩
  | 0x12 => some ⟨0xF8, 0xFFFF, 0xFFFFFFFF⟩
  | 0x20 => some ⟨0xFE, 0xFC00, 0xFFFFFFFF⟩
  | 0x21 => some ⟨0xFE, 0xFC00, 0xFFFFFFF0⟩
  | 0x22 => some ⟨0xFF, 0xFC00, 0xFFFF0000⟩
  | 0x23 => some ⟨0x00, 0xFFFF, 0xFFFFFFFF⟩
  | 0x24 => some ⟨0x00, 0xFFFF, 0xFFFF0000⟩
  | 0x25 => some ⟨0xFF, 0xFFFF, 0xFFFFFFFF⟩
  | 0x26 => some ⟨0xFF, 0xFFFF, 0xFFFFFFFF⟩
  | 0x27 => some ⟨0x00, 0xFFFF, 0xFFFF0000⟩
  | 0x28 => some ⟨0x00, 0xFFFF, 0xFFFFFFFF⟩
  | 0x30 => some ⟨0xFE, 0xFFFF, 0xFFFFFFFF⟩
  | 0x31 => some ⟨0xFF, 0xFFFF, 0xFFFFFFFF⟩
  | 0x32 => some ⟨0xFF, 0xFFFF, 0xFFFFFFFF⟩
  | 0x33 => some ⟨0xFF, 0xFFFF, 0xFFFFFFFF⟩
  | 0x34 => some ⟨0xFF, 0xFFFF, 0xFFFFFFFF⟩
  | 0x35 => some ⟨0xFF, 0xFFFF, 0xFFFFFFFF⟩
  | 0x36 => some ⟨0xFF, 0xFFFF, 0xFFFFFFFF⟩
  | 0x37 => some ⟨0xFF, 0xFFFF, 0x00000000⟩
  | 0x40 => some ⟨0x78, 0xFFFF, 0xFFFFFFFF⟩
  | 0x41 => some ⟨0xFF, 0xFFFF, 0xFFFFFFFF⟩
  | 0x42 => some ⟨0xFF, 0x0000, 0xFFFFFFFF⟩
  | 0x43 => some ⟨0xFF, 0xFFFF, 0xFFFFFFFF⟩
  | 0x50 => some ⟨0xFE, 0x0000, 0x00000000⟩
  | 0x51 => some ⟨0xFF, 0xFFFF, 0x00000000⟩
  | 0x52 => some ⟨0xFF, 0xFFFF, 0x00000000⟩
  | 0x53 => some ⟨0xFF, 0xFFFF, 0xFFFFFFFF⟩
  | 0x54 => some ⟨0xFF, 0xFFFF, 0xFFFFFFFF⟩
  | 0x55 => some ⟨0xFE, 0xFFFF, 0xFFFFFFFF⟩
  | _ => none

/-- Every bit that must be zero is zero (R91). -/
def ZeroMask.clear (z : ZeroMask) (cw : Long) : Bool :=
  (cwSel cw &&& z.sel) == 0 && (cwA cw &&& z.a) == 0 && (cwB cw &&& z.b) == 0

/-! ### Operand codes -/

/-- `SEL[2:0]` as a channel; 5 to 7 are no channel (10_state.md R26). -/
def Chan.ofCode (c : BitVec 3) : Option Chan :=
  match c.toNat with
  | 0 => some .angle
  | 1 => some .absAngle
  | 2 => some .speed
  | 3 => some .accel
  | 4 => some .temp
  | _ => none

/-- The channel number (10_state.md R26). -/
def Chan.code : Chan → BitVec 3
  | .angle => 0
  | .absAngle => 1
  | .speed => 2
  | .accel => 3
  | .temp => 4

/-- `SEL[2:0]` as a motor state; 5 to 7 are no state (10_state.md R35). -/
def MotorState.ofCode (c : BitVec 3) : Option MotorState :=
  match c.toNat with
  | 0 => some .enabled
  | 1 => some .disabled
  | 2 => some .forcedEnabled
  | 3 => some .forcedDisabled
  | 4 => some .overtemperature
  | _ => none

/-- The motor state code (10_state.md R35). -/
def MotorState.code : MotorState → BitVec 3
  | .enabled => 0
  | .disabled => 1
  | .forcedEnabled => 2
  | .forcedDisabled => 3
  | .overtemperature => 4

/-- A direction bit: 0 is `+1`, 1 is `-1` (10_state.md R25, 45_correction_scheduler.md R246). -/
def Dir.ofBit (b : Bool) : Dir := if b then .minus else .plus

/-- The bit of a direction. -/
def Dir.bit : Dir → Bool
  | .plus => false
  | .minus => true

/-- `SEL` as a transaction-buffer element (42_register_protocol.md R166); 18 and above are none. -/
def TxbElem.ofIndex (idx : Byte) : Option TxbElem :=
  if idx.toNat = 0 then some .cmd
  else if h : idx.toNat - 1 < 15 then some (.data ⟨idx.toNat - 1, h⟩)
  else if idx.toNat = 16 then some .safety
  else if idx.toNat = 17 then some .count
  else none

/-- The index of a transaction-buffer element (R166). -/
def TxbElem.index : TxbElem → Byte
  | .cmd => 0
  | .data i => BitVec.ofNat 8 (i.val + 1)
  | .safety => 16
  | .count => 17

/-- Bit 0 of a selector, as a flag. -/
def flag0 (sel : Byte) : Bool := sel.getLsbD 0

/-- The register number `A[9:0]` (R105). -/
def regOf (a : Word) : RegNum := a.extractLsb' 0 10

/-- `B[15:0]`. -/
def lowWord (b : U32) : Word := b.extractLsb' 0 16

/-! ### The decoder -/

/-- The instruction whose operands a word of a known opcode holds; `none` where a channel, state or buffer
code names nothing. -/
def operands (cw : Long) : Option Instr :=
  let sel := cwSel cw
  let a := cwA cw
  let b := cwB cw
  match (cwOp cw).toNat with
  | 0x01 => some .csenter
  | 0x02 => some .csexit
  | 0x10 => (Chan.ofCode (sel.extractLsb' 0 3)).map (fun ch => .macfg ch a)
  | 0x11 => (Chan.ofCode (sel.extractLsb' 0 3)).map (fun ch => .maadd ch b)
  | 0x12 => (Chan.ofCode (sel.extractLsb' 0 3)).map (fun ch => .maval ch)
  | 0x20 => some (.rdreg (flag0 sel) (regOf a))
  | 0x21 => some (.rdburst (flag0 sel) (regOf a) (b.extractLsb' 0 4))
  | 0x22 => some (.wrreg (regOf a) (lowWord b))
  | 0x23 => some (.getbf sel)
  | 0x24 => some (.setbf sel (lowWord b))
  | 0x25 => some .valsafe
  | 0x26 => some .sreset
  | 0x27 => (TxbElem.ofIndex sel).map (fun e => .txbld e (lowWord b))
  | 0x28 => (TxbElem.ofIndex sel).map (fun e => .txbrd e)
  | 0x30 => some (.angle (flag0 sel))
  | 0x31 => some .arev
  | 0x32 => some .aangle
  | 0x33 => some .speed
  | 0x34 => some .accel
  | 0x35 => some .temp
  | 0x36 => some .zero
  | 0x37 => some (.setofs b)
  | 0x40 => (MotorState.ofCode (sel.extractLsb' 0 3)).map (fun st => .setstate st (sel.getLsbD 7))
  | 0x41 => some .getstate
  | 0x42 => some (.setcur a)
  | 0x43 => some .getcur
  | 0x50 => some (.sched (Dir.ofBit (flag0 sel)) a b)
  | 0x51 => some (.setdes b)
  | 0x52 => some (.setpos b)
  | 0x53 => some .geterr
  | 0x54 => some .getpos
  | 0x55 => some (.cten (flag0 sel))
  | _ => none

/-- What the command port makes of a word: an instruction, or a refusal by name (R92, R106). -/
inductive Decoded where
  | instr (i : Instr)
  | illegalCommand
  | illegalOperand
deriving DecidableEq, Repr

/-- The checks of R92 in their order: the opcode is known, else `IllegalCommand`; `SCHED` needs the scheduler, else
`IllegalCommand`; the must-be-zero bits, then the operand ranges, else `IllegalOperand`. -/
def decode (c : Cfg) (cw : Long) : Decoded :=
  match opcodeRow (cwOp cw) with
  | none => .illegalCommand
  | some z =>
    if cwOp cw == 0x50 && !c.schedPresent then .illegalCommand
    else if !z.clear cw then .illegalOperand
    else
      match operands cw with
      | none => .illegalOperand
      | some i => if i.wf c then .instr i else .illegalOperand

/-- The event of line `k` (R94). -/
def eventOf (k : Fin 4) : Instr :=
  match k with
  | 3 => .evStepedge
  | 2 => .evSched
  | 1 => .evTick
  | 0 => .evFine

/-- The largest line of an event vector that is set (60_exceptions.md R268: priority among events pending together). -/
def topLine (v : BitVec 4) : Option (Fin 4) :=
  if v.getLsbD 3 then some 3
  else if v.getLsbD 2 then some 2
  else if v.getLsbD 1 then some 1
  else if v.getLsbD 0 then some 0
  else none

/-- The event a vector `ev[3:0]` asks for first. -/
def decodeEvent (v : BitVec 4) : Option Instr := (topLine v).map eventOf

/-! ### The encoder -/

/-- A command word from its four fields (R90). -/
def packCw (op sel : Byte) (a : Word) (b : U32) : Long := op ++ sel ++ a ++ b

/-- A selector that holds a 3-bit code in its low bits. -/
def selCode (c : BitVec 3) : Byte := c.setWidth 8

/-- A selector that holds one flag in bit 0. -/
def selFlag (b : Bool) : Byte := (BitVec.ofBool b).setWidth 8

/-- The `A` field of a register number. -/
def fieldReg (r : RegNum) : Word := r.setWidth 16

/-- The `B` field of a 16-bit value. -/
def fieldWord (v : Word) : U32 := v.setWidth 32

/-- What an instruction is encoded as: a command word (R90) or an event vector (R94). -/
inductive Wire where
  | command (cw : Long)
  | event (v : BitVec 4)
deriving DecidableEq, Repr

/-- The encoding of an instruction (R91, R94). -/
def encode : Instr → Wire
  | .csenter => .command (packCw 0x01 0 0 0)
  | .csexit => .command (packCw 0x02 0 0 0)
  | .macfg ch cap => .command (packCw 0x10 (selCode ch.code) cap 0)
  | .maadd ch sample => .command (packCw 0x11 (selCode ch.code) 0 sample)
  | .maval ch => .command (packCw 0x12 (selCode ch.code) 0 0)
  | .rdreg safe reg => .command (packCw 0x20 (selFlag safe) (fieldReg reg) 0)
  | .rdburst safe reg count => .command (packCw 0x21 (selFlag safe) (fieldReg reg) (count.setWidth 32))
  | .wrreg reg value => .command (packCw 0x22 0 (fieldReg reg) (fieldWord value))
  | .getbf idx => .command (packCw 0x23 idx 0 0)
  | .setbf idx value => .command (packCw 0x24 idx 0 (fieldWord value))
  | .valsafe => .command (packCw 0x25 0 0 0)
  | .sreset => .command (packCw 0x26 0 0 0)
  | .txbld elem value => .command (packCw 0x27 elem.index 0 (fieldWord value))
  | .txbrd elem => .command (packCw 0x28 elem.index 0 0)
  | .angle useAverage => .command (packCw 0x30 (selFlag useAverage) 0 0)
  | .arev => .command (packCw 0x31 0 0 0)
  | .aangle => .command (packCw 0x32 0 0 0)
  | .speed => .command (packCw 0x33 0 0 0)
  | .accel => .command (packCw 0x34 0 0 0)
  | .temp => .command (packCw 0x35 0 0 0)
  | .zero => .command (packCw 0x36 0 0 0)
  | .setofs offset => .command (packCw 0x37 0 0 offset)
  | .setstate state clr => .command (packCw 0x40 (BitVec.ofBool clr ++ 0#4 ++ state.code) 0 0)
  | .getstate => .command (packCw 0x41 0 0 0)
  | .setcur mA => .command (packCw 0x42 0 mA 0)
  | .getcur => .command (packCw 0x43 0 0 0)
  | .sched dir rate count => .command (packCw 0x50 (selFlag dir.bit) rate count)
  | .setdes pos => .command (packCw 0x51 0 0 pos)
  | .setpos pos => .command (packCw 0x52 0 0 pos)
  | .geterr => .command (packCw 0x53 0 0 0)
  | .getpos => .command (packCw 0x54 0 0 0)
  | .cten enable => .command (packCw 0x55 (selFlag enable) 0 0)
  | .evStepedge => .event 0x8
  | .evSched => .event 0x4
  | .evTick => .event 0x2
  | .evFine => .event 0x1

/-- The decoder over either kind of encoding. -/
def decodeWire (c : Cfg) : Wire → Decoded
  | .command cw => decode c cw
  | .event v =>
    match decodeEvent v with
    | some i => .instr i
    | none => .illegalCommand

/-! ### The bit-field descriptor word (R101) -/

/-- The access mode code (R103). -/
def AccessMode.code : AccessMode → BitVec 3
  | .read => 0
  | .write => 1
  | .readWrite => 2
  | .readUpdate => 3
  | .writeUpdate => 4
  | .reserved => 5

/-- The access mode of a code; 6 and 7 are none (R103). -/
def AccessMode.ofCode (c : BitVec 3) : Option AccessMode :=
  match c.toNat with
  | 0 => some .read
  | 1 => some .write
  | 2 => some .readWrite
  | 3 => some .readUpdate
  | 4 => some .writeUpdate
  | 5 => some .reserved
  | _ => none

/-- The descriptor as one 64-bit word, format `BFD` (R101). -/
def Descriptor.pack (f : Descriptor) : Long :=
  f.mode.code ++ f.reg ++ f.mask ++ f.offset ++ f.dflt ++ f.slot ++ 0#7

/-- The descriptor a `BFD` word holds; `none` for a mode code 6 or 7 or a non-zero low field (R101, R103). -/
def Descriptor.unpack (w : Long) : Option Descriptor :=
  if w.extractLsb' 0 7 == 0 then
    (AccessMode.ofCode (w.extractLsb' 61 3)).map (fun m =>
      { mode := m, reg := w.extractLsb' 51 10, mask := w.extractLsb' 35 16, offset := w.extractLsb' 31 4,
        dflt := w.extractLsb' 15 16, slot := w.extractLsb' 7 8 })
  else none

/-! ### The host's question -/

/-- The instruction the decoder reads from a table word: a row of at most 8 bits is an event vector `ev[3:0]`, a
longer one a command word, decoded under the default configuration. -/
def decodeTableWord (nbits w : Nat) : Option Instr :=
  if nbits ≤ 8 then
    if w < 16 then decodeEvent (BitVec.ofNat 4 w) else none
  else if w < 2 ^ 64 then
    match decode Config.default (BitVec.ofNat 64 w) with
    | .instr i => some i
    | .illegalCommand => none
    | .illegalOperand => none
  else none

end Sys2Proof
end

