-- ==== Sys2Proof/Machine/State.lean ====
section
/-! DEFINITION. The state of CORE as plain data (10_state.md R20 to R39), the faults and refusals of a step, and the
state after reset. Fields marked MODEL are the model's own, not the spec's (INVENTORY.md, State). -/

namespace Sys2Proof.Machine

open Sys2Proof

/-- One filter channel (10_state.md R26). `buf` has `cap` entries. -/
structure Filter where
  cap : Nat
  head : Nat
  fill : Nat
  sum : Fx
  buf : List Fx
deriving DecidableEq, Repr

/-- The transaction buffer (10_state.md R28). `data` has 15 entries. -/
structure Txb where
  cmd : Word
  count : BitVec 4
  data : List Word
  safety : Word
deriving DecidableEq, Repr

/-- The MotionEstimator registers (10_state.md R23). -/
structure EstRegs where
  startupAngleOfs : Fx
  startupRevOfs : U32
  calibOfs : Fx
  lastAngle : Fx
  lastTime : U32
deriving DecidableEq, Repr

/-- The FaultMonitor registers (10_state.md R24) and the two output levels of R29. -/
structure FaultRegs where
  stallCount : U32
  lastOtTime : U32
  motorState : MotorState
  rmsCurrent : Word
  stallOut : Bool
  ledOut : Bool
deriving DecidableEq, Repr

/-- The CorrectionScheduler registers (10_state.md R25). R25 says that the four `sched` fields exist only with
`CFG.SCHED_PRESENT`; that the model keeps them at their reset values without it is its own (DESIGN CHOICE, log 27). -/
structure SchedRegs where
  desiredStep : U32
  currentStep : U32
  elecAngle : Fx
  pidInteg : U32
  pidPrevErr : BitVec 34
  tickEnabled : Bool
  fineEnabled : Bool
  fineFreq : U32
  fineDir : Dir
  schedActive : Bool
  schedCount : U32
  schedDir : Dir
  schedRate : Word
deriving DecidableEq, Repr

/-- The bus-line mode (10_state.md R36). -/
inductive BusMode where
  | pushPull
  | openDrain
deriving DecidableEq, Repr

/-- The transport lines CORE drives: chip select and bus mode (10_state.md R36, R39). -/
structure Bus where
  selected : Bool
  mode : BusMode
deriving DecidableEq, Repr

/-- The status of a response: the ErrorKinds and the two refusals of the port (30_encoding.md R100). -/
inductive Status where
  | ok
  | systemError
  | interfaceAccessError
  | invalidAngleError
  | crcMismatch
  | fieldNotReadable
  | fieldNotWritable
  | retryExhausted
  | illegalCommand
  | illegalOperand
deriving DecidableEq, Repr

/-- The entries of the output trace: the transport operations of R36 and the output events of R38 (10_state.md). -/
inductive TraceItem where
  | selAssert
  | selDeassert
  | busMode (m : BusMode)
  | xfer (b1 b0 r1 r0 : Byte)
  | step (dir : Dir) (useMultiplier updateDesired : Bool)
  | motorState (state : MotorState) (clearErrors : Bool)
  | rmsCurrent (mA : Word)
  | response (status : Status) (data : Long)
deriving DecidableEq, Repr

/-- The estimator commands as they stand while their blocking read goes on; `SPEED` has one entry for each
strategy (43_motion_estimator.md R187, R188). -/
inductive EstOp where
  | angle (useAverage : Bool)
  | arev
  | aangle
  | speedDiff
  | speedReg
  | accel
  | temp
  | zero
deriving DecidableEq, Repr

/-- MODEL (log 7). An estimator command between two attempts of its blocking read (43_motion_estimator.md R180): what it
is, the `now` it sampled at its start, the revolution word if that read has ended, and the failed attempts of
the read that goes on. -/
structure InFlight where
  op : EstOp
  now : U32
  rev : Option Word
  fails : Nat
deriving DecidableEq, Repr

/-- MODEL (log 5). What the outside does between two steps (10_state.md R37): the levels it holds, the event lines it pulses, the
command word it presents if any, and whether it applies reset. -/
structure Moment where
  reset : Bool
  now : U32
  enableIn : Bool
  dirIn : Bool
  requests : BitVec 4
  command : Option Long
deriving DecidableEq, Repr

/-- MODEL (log 4, 5, 6). The environment: the levels of the inputs, the words on the command port (the first is the
one presented), what arrives next, and the sensor's next answers with the counter of the free ones. -/
structure Env where
  now : U32
  enableIn : Bool
  dirIn : Bool
  port : List Long
  moments : List Moment
  answers : List (Byte × Byte)
  oracle : Nat
deriving DecidableEq, Repr

/-- The machine. -/
structure State where
  cfg : Cfg
  csCount : BitVec 8
  est : EstRegs
  fm : FaultRegs
  sch : SchedRegs
  ma : Bank Filter
  cache : List (Option Word)
  txb : Txb
  bus : Bus
  pending : BitVec 4
  trace : List TraceItem
  busy : Option InFlight
  env : Env
deriving DecidableEq, Repr

/-- Where the spec gives no transition ("stuck", 93_implementation_defined.md section 1). All are safe: the model stops
where the spec says nothing of what hardware does. -/
inductive Fault where
  /-- U1: `CsEnter` with `csCount = 255`. Raised by `csEnter`. Safe. -/
  | csOverflow
  /-- U2: `CsExit` with `csCount = 0`. Raised by `csExit`. Safe. -/
  | csUnderflow
  /-- U3: a bit-field command that needs a cache slot holding `none`. Raised by SETBF. Safe. -/
  | cacheSlotUnread
  /-- U4: `SPEED` (finite difference) or `ACCEL` with no time since the last sample. Safe. -/
  | zeroInterval
  /-- U7: an Fx result that does not fit `CFG.FXW` bits. Raised by `fxCheck` and `maAdd`. Safe. -/
  | fxOverflow
deriving DecidableEq, Repr

/-- Where the model has no meaning to give. Both are safe: nothing is claimed of a refused step. -/
inductive Refusal where
  /-- Raised by `exec` alone, for an instruction that has no meaning yet. Safe. -/
  | notModelled (mnemonic : String)
  /-- U5, U6: the configuration is none of this hardware. Raised by `step` and by TEMP with a zero divisor. Safe. -/
  | illFormedConfig
deriving DecidableEq, Repr

/-- A channel right after `MaConfigure(cap)` (41_moving_average.md R140, 10_state.md R26). -/
def Filter.empty (cap : Nat) : Filter := ⟨cap, 0, 0, 0, List.replicate cap 0⟩

/-- The filter bank after reset (10_state.md R39). -/
def State.resetBank (c : Cfg) : Bank Filter :=
  ⟨.empty c.maCap.angle, .empty c.maCap.absAngle, .empty c.maCap.speed, .empty c.maCap.accel, .empty c.maCap.temp⟩

/-- The machine right after reset under a configuration, with the environment as it is: every element at its value
of 10_state.md R39, `lastTime` and `lastOtTime` at the `now` of that moment (70_reset_and_hazards.md R290). -/
def State.resetIn (c : Cfg) (e : Env) : State where
  cfg := c
  csCount := 0
  est := ⟨0, 0, 0, 0, e.now⟩
  fm := ⟨0, e.now, .disabled, 0, false, false⟩
  sch := ⟨0, 0, 0, 0, 0, false, false, 0, .plus, false, 0, .plus, 0⟩
  ma := State.resetBank c
  cache := List.replicate c.nslots none
  txb := ⟨0, 0, List.replicate 15 0, 0⟩
  bus := ⟨false, .pushPull⟩
  pending := 0
  trace := []
  busy := none
  env := e

/-- The environment the reset state starts in: nothing presented, nothing listed, inputs at 0 (DESIGN CHOICE, log 6). -/
def Env.quiet : Env := ⟨0, false, false, [], [], [], 0⟩

/-- The machine right after reset, under the spec's default configuration (log 1). -/
def State.reset : State := State.resetIn Config.default Env.quiet

/-- Reset under a configuration of the outside's choosing; none where the configuration is none of this hardware
(93_implementation_defined.md U5, U6: the constructor requires well-formedness). -/
def State.boot (c : Cfg) (e : Env) : Option State :=
  if c.wf then some (State.resetIn c e) else none

end Sys2Proof.Machine
end

