-- ==== Sys2Proof/Machine/Operands.lean ====
section
/-! DEFINITION. Operand assembly and the number formats: bytes of a word, extension, Fx arithmetic, register fields
(00_scope.md R9 to R12, 30_encoding.md R96, R105). -/

namespace Sys2Proof.Machine

open Sys2Proof

/-! ### Bytes and words (R9, 20_memory.md R60) -/

/-- `hi8(w)`. -/
def hi8 (w : Word) : Byte := w.extractLsb' 8 8

/-- `lo8(w)`. -/
def lo8 (w : Word) : Byte := w.extractLsb' 0 8

/-- `{r1, r0}`: the word of two received bytes, the first most significant (R60). -/
def wordOf (r1 r0 : Byte) : Word := r1 ++ r0

/-! ### Integers (R10, R11) -/

/-- `sext_N` of the low `N` bits of a 16-bit word (R10). -/
def sextLow (n : Nat) (w : Word) : Int := (w.setWidth n).toInt

/-- `tdiv(a, b)`: the quotient truncated toward zero (R11). -/
def tdiv (a b : Int) : Int := Int.tdiv a b

/-- `clamp(x, lo, hi)` (R11). -/
def clamp (x lo hi : Int) : Int := min (max x lo) hi

/-- `wrap32(x)` as a register (R11). -/
def wrap32 (x : Int) : U32 := BitVec.ofInt 32 x

/-- `usub32(a, b)` (R11). -/
def usub32 (a b : U32) : Nat := (a - b).toNat

/-- A direction as the integer `+1` or `-1` (10_state.md R25). -/
def dirInt : Dir → Int
  | .plus => 1
  | .minus => -1

/-- The direction of a non-zero integer (`sign`, R11). -/
def dirOf (x : Int) : Dir := if x < 0 then .minus else .plus

/-! ### Fixed point (R12) -/

/-- `Fx(360)`: a whole turn in Fx degrees (43_motion_estimator.md R185). -/
def fxTurn : Fx := 23592960

/-- `fxdiv(a, b)` (R12). -/
def fxdiv (a b : Fx) : Fx := tdiv (a * 65536) b

/-- `fxdivi(a, d)` (R12). -/
def fxdivi (a : Fx) (d : Int) : Fx := tdiv a d

/-- `fxmul(a, b)` (R12). -/
def fxmul (a b : Fx) : Fx := tdiv (a * b) 65536

/-- The value fits `CFG.FXW` bits in two's complement (R12). -/
def fxFits (c : Cfg) (x : Fx) : Bool :=
  decide (-(2 ^ (c.fxw - 1) : Int) ≤ x ∧ x < 2 ^ (c.fxw - 1))

/-- An Fx result, or the fault of U7 where it does not fit (R12, log 10). -/
def fxCheck (c : Cfg) (x : Fx) : Except Fault Fx :=
  if fxFits c x then .ok x else .error .fxOverflow

/-- A signed result as response data: 64-bit two's complement (30_encoding.md R93). -/
def dataOfInt (x : Int) : Long := BitVec.ofInt 64 x

/-! ### The operands of R105 -/

/-- A Q15.16 sample or offset: `sext_32(B)`. -/
def q1516 (b : U32) : Fx := b.toInt

/-- The angle of an angle register word, before the offsets: `(w & 0x7FFF) x 720` (43_motion_estimator.md R181). -/
def rawAngle (w : Word) : Fx := ((w &&& 0x7FFF).toNat : Int) * 720

/-- The revolution count of a revolution register word: `sext_9((w >> REV_SHIFT) & 0x1FF)`. -/
def rawRev (c : Cfg) (w : Word) : Int := sextLow 9 ((w >>> c.revShift) &&& 0x1FF)

/-- The temperature count of a temperature register word: `sext_10((w >> TEMP_SHIFT) & 0x3FF)`. -/
def rawTemp (c : Cfg) (w : Word) : Int := sextLow 10 ((w >>> c.tempShift) &&& 0x3FF)

/-- The word of a burst at an index. -/
def burstWord (d : List Word) (i : Nat) : Word := d.getD i 0

/-- The hardware speed count: `sext_15(w & 0x7FFF)` of burst word `SPEED_WORD_IDX`. -/
def rawSpeed (c : Cfg) (d : List Word) : Int := sextLow 15 (burstWord d c.speedWordIdx &&& 0x7FFF)

/-- The speed mode: `(w >> MODE_SHIFT) & 3` of burst word `MODE_WORD_IDX`. -/
def speedMode (c : Cfg) (d : List Word) : BitVec 2 := (burstWord d c.modeWordIdx >>> c.modeShift).setWidth 2

/-- `CFG.SPEED_SCALE[m]`: the configured constant, or the free value where it is OPEN (log 2). -/
def speedScaleOf (c : Cfg) (m : BitVec 2) : Fx :=
  match c.speedScale with
  | none => Config.openSpeedScale m
  | some t =>
    match m.toNat with
    | 0 => t.mode0
    | 1 => t.mode1
    | 2 => t.mode2
    | _ => t.mode3

/-- `ExtractField(f, w)` (42_register_protocol.md R158). -/
def extractField (f : Descriptor) (w : Word) : Word := (w &&& f.mask) >>> f.offset.toNat

/-- `MergeField(f, w, x)` (42_register_protocol.md R160). -/
def mergeField (f : Descriptor) (w x : Word) : Word :=
  (w &&& ~~~ f.mask) ||| ((x <<< f.offset.toNat) &&& f.mask)

/-- `PermitsRead(mode)` (30_encoding.md R103). -/
def permitsRead : AccessMode → Bool
  | .read => true
  | .write => false
  | .readWrite => true
  | .readUpdate => true
  | .writeUpdate => false
  | .reserved => false

/-- `PermitsWrite(mode)` (30_encoding.md R103). -/
def permitsWrite : AccessMode → Bool
  | .read => false
  | .write => true
  | .readWrite => true
  | .readUpdate => false
  | .writeUpdate => true
  | .reserved => false

/-- `AddrWord(rw, safe, reg, len)` (30_encoding.md R96). -/
def addrWord (rw safe : Bool) (reg : RegNum) (len : BitVec 4) : Word :=
  BitVec.ofBool rw ++ BitVec.ofBool safe ++ reg ++ len

/-- The 8-bit code of a status (30_encoding.md R100). -/
def Status.code : Status → Byte
  | .ok => 0x00
  | .systemError => 0x01
  | .interfaceAccessError => 0x02
  | .invalidAngleError => 0x03
  | .crcMismatch => 0x04
  | .fieldNotReadable => 0x05
  | .fieldNotWritable => 0x06
  | .retryExhausted => 0x07
  | .illegalCommand => 0x80
  | .illegalOperand => 0x81

end Sys2Proof.Machine
end

