-- ==== Sys2Proof/Machine/Flags.lean ====
section
/-! DEFINITION. The flag computations. CORE has no condition codes (10_state.md R29); its flags are the error flags and the
checksum of the safety word (30_encoding.md R98, 42_register_protocol.md R151 to R153) and the stall conditions
(44_fault_monitor.md R215). -/

namespace Sys2Proof.Machine

open Sys2Proof

/-- A flag of the safety word is raised: its bit equals `CFG.SAFETY_ERR_LEVEL` (30_encoding.md R98). -/
def raised (c : Cfg) (bit : Nat) (w : Word) : Bool := w.getLsbD bit == c.safetyErrLevel

/-- One shift of the CRC register (42_register_protocol.md R151). -/
def crcShift (poly c : Byte) : Byte :=
  if c.getLsbD 7 then (c <<< 1) ^^^ poly else c <<< 1

/-- `n` shifts. -/
def crcShifts (poly : Byte) : Nat → Byte → Byte
  | 0, c => c
  | n + 1, c => crcShifts poly n (crcShift poly c)

/-- The CRC register after a sequence of bytes, most significant bit first (R151). -/
def crcBytes (poly : Byte) : Byte → List Byte → Byte
  | c, [] => c
  | c, b :: bs => crcBytes poly (crcShifts poly 8 (c ^^^ b)) bs

/-- `Checksum(bytes)`: the complemented CRC from the seed (R151). -/
def checksum (c : Cfg) (bytes : List Byte) : Byte := ~~~ (crcBytes c.crcPoly c.crcSeed bytes)

/-- The bytes of words, each most significant first (20_memory.md R60). -/
def bytesOf : List Word → List Byte
  | [] => []
  | w :: ws => hi8 w :: lo8 w :: bytesOf ws

/-- `CrcBytes(txb)`: the command echo and the `count` data words (42_register_protocol.md R152). -/
def Txb.crcBytes (t : Txb) : List Byte := bytesOf (t.cmd :: t.data.take t.count.toNat)

/-- `Validate(txb)`: the flags in the order SYS, IFA, INV, then the checksum (42_register_protocol.md R153). -/
def validate (c : Cfg) (t : Txb) : Status :=
  if raised c c.safetyBitSys t.safety then .systemError
  else if raised c c.safetyBitIf t.safety then .interfaceAccessError
  else if raised c c.safetyBitInv t.safety then .invalidAngleError
  else if checksum c t.crcBytes ≠ lo8 t.safety then .crcMismatch
  else .ok

/-- The outcomes after which a safety reset is issued (42_register_protocol.md R154, 90_conflicts.md C1). -/
def needsSafetyReset (c : Cfg) (k : Status) : Bool :=
  k == .systemError || k == .invalidAngleError || (k == .interfaceAccessError && c.safetyResetOnIface)

/-- In tolerance: `abs(e) <= 1` (45_correction_scheduler.md R230). -/
def inTolerance (e : Int) : Bool := decide (e.natAbs ≤ 1)

/-- `OverLimit(c)` (44_fault_monitor.md R215). -/
def overLimit (c : Cfg) (count : Nat) : Bool :=
  decide ((count : Int) * 65536 > c.faultTimeS * c.correctionFreqHz)

/-- The stall condition of a tick: the counter after its increment over the limit, or the error over the threshold
(44_fault_monitor.md R216). -/
def stallCondition (c : Cfg) (count : Nat) (e : Int) : Bool :=
  overLimit c count || decide (e.natAbs > c.faultStepThreshold)

end Sys2Proof.Machine
end

