-- ==== Sys2Proof/Machine/Ops.lean ====
section
/-! DEFINITION. The named operations over the state that several instructions share: the setters (each element is written
through one), the trace, the critical section, the transport and its three transactions, the register cache, the
filters, the delivery of an event (CORE's taking of an interrupt, 60_exceptions.md R267, R270) and its return. -/

namespace Sys2Proof.Machine

open Sys2Proof

/-! ### Setters -/

/-- Write `csCount`. -/
def State.withCs (s : State) (n : BitVec 8) : State := { s with csCount := n }

/-- Write the MotionEstimator registers. -/
def State.withEst (s : State) (x : EstRegs) : State := { s with est := x }

/-- Write the FaultMonitor registers. -/
def State.withFm (s : State) (x : FaultRegs) : State := { s with fm := x }

/-- Write the CorrectionScheduler registers. -/
def State.withSch (s : State) (x : SchedRegs) : State := { s with sch := x }

/-- Write the filter bank. -/
def State.withMa (s : State) (x : Bank Filter) : State := { s with ma := x }

/-- Write the register cache. -/
def State.withCache (s : State) (x : List (Option Word)) : State := { s with cache := x }

/-- Write the transaction buffer. -/
def State.withTxb (s : State) (x : Txb) : State := { s with txb := x }

/-- Write the transport lines. -/
def State.withBus (s : State) (x : Bus) : State := { s with bus := x }

/-- Write the pending bits. -/
def State.withPending (s : State) (x : BitVec 4) : State := { s with pending := x }

/-- MODEL: the command whose blocking read goes on. -/
def State.withBusy (s : State) (x : Option InFlight) : State := { s with busy := x }

/-- MODEL: the environment. -/
def State.withEnv (s : State) (x : Env) : State := { s with env := x }

/-- `emit X`: append to the output trace (10_state.md R38). -/
def State.emit (s : State) (x : TraceItem) : State := { s with trace := s.trace ++ [x] }

/-- `respond(status, data)` (30_encoding.md R93). -/
def State.respond (s : State) (status : Status) (data : Long) : State := s.emit (.response status data)

/-! ### The critical section (40_critical_section.md) -/

/-- `CsEnter` (R130); at 255 there is no transition (U1). -/
def csEnter (s : State) : Except Fault State :=
  if s.csCount = 255 then .error .csOverflow else .ok (s.withCs (s.csCount + 1))

/-- `CsExit` (R131); at 0 there is no transition (U2). -/
def csExit (s : State) : Except Fault State :=
  if s.csCount = 0 then .error .csUnderflow else .ok (s.withCs (s.csCount - 1))

/-- `n` nested `CsEnter` (R134). -/
def csEnterMany : Nat → State → Except Fault State
  | 0, s => .ok s
  | n + 1, s =>
    match csEnter s with
    | .error f => .error f
    | .ok s1 => csEnterMany n s1

/-- `n` nested `CsExit` (R134). -/
def csExitMany : Nat → State → Except Fault State
  | 0, s => .ok s
  | n + 1, s =>
    match csExit s with
    | .error f => .error f
    | .ok s1 => csExitMany n s1

/-- A body inside one `CsEnter`/`CsExit` pair (R134). -/
def inSection {α : Type} (body : State → Except Fault (α × State)) (s : State) : Except Fault (α × State) :=
  match csEnter s with
  | .error f => .error f
  | .ok s1 =>
    match body s1 with
    | .error f => .error f
    | .ok (a, s2) =>
      match csExit s2 with
      | .error f => .error f
      | .ok s3 => .ok (a, s3)

/-- The status and data of a response. -/
structure Reply where
  status : Status
  data : Long
deriving DecidableEq, Repr

/-- The response at the end of a command, after its `CsExit` (R134). -/
def answer (r : Except Fault (Reply × State)) : Host.Outcome State Fault Refusal :=
  match r with
  | .error f => .fault f
  | .ok (r, s) => .next (s.respond r.status r.data)

/-- A command whose body holds the section for its whole duration (R134, 60_exceptions.md R270). -/
def command (body : State → Except Fault (Reply × State)) (s : State) : Host.Outcome State Fault Refusal :=
  answer (inSection body s)

/-- A refused command word: one response, nothing else (30_encoding.md R92, 60_exceptions.md R262). -/
def refuseCommand (status : Status) (s : State) : Host.Outcome State Fault Refusal :=
  .next (s.respond status 0)

/-- The body of a handler as the body of a section: it answers nothing. -/
def silent (r : Except Fault State) : Except Fault (Unit × State) := r.map (fun s => ((), s))

/-- An event handler: its body inside the section, no response (60_exceptions.md R270, R271). -/
def handler (body : State → Except Fault State) (s : State) : Host.Outcome State Fault Refusal :=
  match inSection (fun s1 => silent (body s1)) s with
  | .error f => .fault f
  | .ok (_, s1) => .next s1

/-! ### Events as interrupts (60_exceptions.md R266 to R271) -/

/-- The event lines are masked exactly while `csCount > 0` (10_state.md R22, 40_critical_section.md R130). -/
def State.masked (s : State) : Bool := s.csCount != 0

/-- The line whose event is delivered next, if any: unmasked, pending, the largest (R267, R268). -/
def deliverable (s : State) : Option (Fin 4) := if s.masked then none else topLine s.pending

/-- The bit of line `k` in a vector `ev[3:0]` (30_encoding.md R94). -/
def lineBit (k : Fin 4) : BitVec 4 := 1#4 <<< k.val

/-- Taking an event: its pending bit is cleared, nothing is saved (R267, R270). The handler's own meaning samples its inputs
and holds the section; it returns by its `CsExit` (R271). -/
def deliver (k : Fin 4) (s : State) : State := s.withPending (s.pending &&& ~~~ lineBit k)

/-- Requests on the event lines: each sets its pending bit, a second one merges (10_state.md R32). -/
def request (lines : BitVec 4) (s : State) : State := s.withPending (s.pending ||| lines)

/-! ### The transport (10_state.md R36, 20_memory.md R66) -/

/-- `SelAssert`. -/
def selAssert (s : State) : State := (s.withBus { s.bus with selected := true }).emit .selAssert

/-- `SelDeassert`. -/
def selDeassert (s : State) : State := (s.withBus { s.bus with selected := false }).emit .selDeassert

/-- `BusMode(m)`. -/
def setBusMode (m : BusMode) (s : State) : State := (s.withBus { s.bus with mode := m }).emit (.busMode m)

/-- The two bytes the sensor answers next: the listed ones, else free (R66, log 4). -/
def nextAnswer (e : Env) : Byte × Byte :=
  match e.answers with
  | [] => Config.sensorAnswer e.oracle
  | a :: _ => a

/-- The environment after one exchange. -/
def afterAnswer (e : Env) : Env := { e with answers := e.answers.tail, oracle := e.oracle + 1 }

/-- `Xfer(b1, b0)`: two bytes out, two bytes back, both recorded (R66). -/
def xfer (b1 b0 : Byte) (s : State) : (Byte × Byte) × State :=
  let r := nextAnswer s.env
  (r, (s.withEnv (afterAnswer s.env)).emit (.xfer b1 b0 r.1 r.2))

/-- `XferWord(w)`: most significant byte first both ways (20_memory.md R60). -/
def xferWord (w : Word) (s : State) : Word × State :=
  let r := xfer (hi8 w) (lo8 w) s
  (wordOf r.1.1 r.1.2, r.2)

/-- `n` exchanges of the blank word, and the words received in order (20_memory.md R67). -/
def readBlanks : Nat → State → List Word × State
  | 0, s => ([], s)
  | n + 1, s =>
    let r := xferWord s.cfg.blankWord s
    let q := readBlanks n r.2
    (r.1 :: q.1, q.2)

/-- Entries 0 to `n-1` are replaced, the rest keep their values (20_memory.md R67). -/
def overlay (d old : List Word) : List Word := d ++ old.drop d.length

/-- The opening of a transaction that reads: chip select, the first word, open drain (20_memory.md R67, R69). -/
def beginRead (w : Word) (s : State) : State := setBusMode .openDrain (xferWord w (selAssert s)).2

/-- The close of a transaction that reads: push-pull, then chip select released (20_memory.md R67, R69). -/
def endRead (s : State) : State := selDeassert (setBusMode .pushPull s)

/-- The buffer after a read transaction (20_memory.md R67, 10_state.md R28). -/
def Txb.record (t : Txb) (cmd : Word) (n : BitVec 4) (d : List Word) (safety : Word) : Txb :=
  { cmd := cmd, count := n, data := overlay d t.data, safety := safety }

/-- `MemRead(reg, n, safe)`: the words read and the safety word (20_memory.md R67). -/
def memRead (reg : RegNum) (n : BitVec 4) (safe : Bool) (s : State) : (List Word × Word) × State :=
  let w := addrWord true safe reg n
  let r := readBlanks n.toNat (beginRead w s)
  let q := xferWord s.cfg.blankWord r.2
  ((r.1, q.1), (endRead q.2).withTxb (s.txb.record w n r.1 q.1))

/-- `MemWrite(reg, 1, v)` (20_memory.md R68). -/
def memWrite (reg : RegNum) (v : Word) (s : State) : State :=
  selDeassert (xferWord v (xferWord (addrWord false false reg 1) (selAssert s)).2).2

/-- `SafetyReset()` (20_memory.md R69). -/
def safetyReset (s : State) : State :=
  endRead (readBlanks 2 (beginRead s.cfg.safetyResetWord s)).2

/-! ### The register cache (10_state.md R27, 42_register_protocol.md R155) -/

/-- The content of a slot: `none`, or the last-read word. -/
def State.slot (s : State) (i : Byte) : Option Word := s.cache.getD i.toNat none

/-- Store a word in a slot. -/
def State.setSlot (s : State) (i : Byte) (w : Word) : State := s.withCache (s.cache.set i.toNat (some w))

/-- The cache update for one register, if it has a slot. -/
def cacheWord (reg : RegNum) (w : Word) (s : State) : State :=
  match s.cfg.slotOf reg with
  | none => s
  | some i => s.setSlot i w

/-- `UpdateCache(reg, n, d)`: registers `reg, reg+1, ...` modulo 1024 (R155, 20_memory.md R70). -/
def updateCache : RegNum → List Word → State → State
  | _, [], s => s
  | reg, w :: ws, s => updateCache (reg + 1) ws (cacheWord reg w s)

/-- `ValidateAndReset(txb)` (42_register_protocol.md R154). -/
def validateAndReset (s : State) : Status × State :=
  let k := validate s.cfg s.txb
  (k, if needsSafetyReset s.cfg k then safetyReset s else s)

/-- `ReadRegister(reg, n, safe)`: one attempt (42_register_protocol.md R150). -/
def readRegister (reg : RegNum) (n : BitVec 4) (safe : Bool) (s : State) : Except Fault ((List Word × Status) × State) :=
  inSection (fun s1 =>
    let r := memRead reg n safe s1
    let s2 := updateCache reg r.1.1 r.2
    if safe then
      let k := validateAndReset s2
      .ok ((r.1.1, k.1), k.2)
    else .ok ((r.1.1, .ok), s2)) s

/-! ### The filters (41_moving_average.md) -/

/-- One sample into a channel (R141). -/
def Filter.add (m : Filter) (x : Fx) : Filter :=
  if m.fill = m.cap then
    { m with sum := m.sum - m.buf.getD m.head 0 + x, buf := m.buf.set m.head x, head := (m.head + 1) % m.cap }
  else
    { m with sum := m.sum + x, fill := m.fill + 1, buf := m.buf.set m.head x, head := (m.head + 1) % m.cap }

/-- The mean of a channel, truncated toward zero; 0 where it is empty (R142). -/
def Filter.value (m : Filter) : Fx := fxdivi m.sum (max m.fill 1 : Nat)

/-- `MaConfigure(ch, cap)` (R140). -/
def maConfigure (ch : Chan) (cap : Nat) (s : State) : State := s.withMa (s.ma.set ch (.empty cap))

/-- `MaAdd(ch, x)` (R141); the sample and the sum fit the stored width, or U7. -/
def maAdd (ch : Chan) (x : Fx) (s : State) : Except Fault State :=
  let m := (s.ma.get ch).add x
  if fxFits s.cfg x && fxFits s.cfg m.sum then .ok (s.withMa (s.ma.set ch m)) else .error .fxOverflow

/-- `MaValue(ch)` (R142). -/
def maValue (ch : Chan) (s : State) : Fx := (s.ma.get ch).value

/-! ### The outputs that follow state (10_state.md R38) -/

/-- The level outputs. -/
structure Outputs where
  stallOut : Bool
  ledOut : Bool
  tickEn : Bool
  fineEn : Bool
  fineFreq : U32
  schedEn : Bool
  schedRate : Word
deriving DecidableEq, Repr

/-- The level outputs of a state, at all times (R38, 44_fault_monitor.md R222, 45_correction_scheduler.md R249). Without
`CFG.SCHED_PRESENT` the spec does not say what `sched_en` and `sched_rate` show: 0 here (DESIGN CHOICE, log 27). -/
def State.outputs (s : State) : Outputs :=
  ⟨s.fm.stallOut, s.fm.ledOut, s.sch.tickEnabled, s.sch.fineEnabled, s.sch.fineFreq, s.sch.schedActive, s.sch.schedRate⟩

end Sys2Proof.Machine
end

