-- ==== Sys2Proof/Machine/FaultMonitor.lean ====
section
/-! DEFINITION. The fault monitor: SETSTATE, GETSTATE, SETCUR, GETCUR and the two evaluations `OtEval` and `StallEval`
(44_fault_monitor.md). -/

namespace Sys2Proof.Machine

open Sys2Proof

/-- `SetMotorState(s, clr)`: the one place `motorState` is written (R210). -/
def setMotorState (st : MotorState) (clr : Bool) (s : State) : State :=
  let s1 := if s.fm.motorState ≠ st ∨ clr = true then s.emit (.motorState st clr) else s
  s1.withFm { s1.fm with motorState := st }

/-- `stallOut <- b`. -/
def setStallOut (b : Bool) (s : State) : State := s.withFm { s.fm with stallOut := b }

/-- `stallCount <- 0; stallOut <- 0` (R217, R218). -/
def clearStall (s : State) : State := s.withFm { s.fm with stallCount := 0, stallOut := false }

/-- The current after one back-off, never below 0 (R211, R214). -/
def backedOff (c : Cfg) (mA : Word) : Word := BitVec.ofNat 16 (mA.toNat - c.otCurrentStep.toNat)

/-- The back-off of the drive current (R211). -/
def backOff (now : U32) (s : State) : State :=
  let mA := backedOff s.cfg s.fm.rmsCurrent
  (s.withFm { s.fm with rmsCurrent := mA, lastOtTime := now }).emit (.rmsCurrent mA)

/-- `OtEval(T, now)` (R211). -/
def otEval (t : Fx) (now : U32) (s : State) : State :=
  if s.fm.motorState = .overtemperature then
    if t < s.cfg.otClear then setMotorState .disabled true s else s
  else if s.cfg.otShutdown ≤ t then setMotorState .overtemperature false s
  else if s.cfg.otWarn ≤ t ∧ s.cfg.otInterval.toNat ≤ usub32 now s.fm.lastOtTime then backOff now s
  else s

/-- The saturating increment of `stallCount` (R216). -/
def stallCountUp (n : U32) : U32 := if n = 0xFFFFFFFF then n else n + 1

/-- `StallEval(e)` (R216). -/
def stallEval (e : Int) (s : State) : State :=
  let n := stallCountUp s.fm.stallCount
  s.withFm { s.fm with stallCount := n, stallOut := s.fm.stallOut || stallCondition s.cfg n.toNat e }

/-- The response of `SETSTATE`: the state now held (R218). -/
def stateReply (s : State) : Reply := ⟨.ok, s.fm.motorState.code.setWidth 64⟩

/-- The effect of `SETSTATE` (R218): ignored in `Overtemperature` unless errors are cleared. -/
def applySetState (st : MotorState) (clr : Bool) (s : State) : State :=
  if s.fm.motorState = .overtemperature ∧ clr = false then s
  else setMotorState st clr (if clr then clearStall s else s)

/-- `SETSTATE state, clearErrors` (R218). -/
def execSetstate (st : MotorState) (clr : Bool) (s : State) : Host.Outcome State Fault Refusal :=
  command (fun s1 => let s2 := applySetState st clr s1; .ok (stateReply s2, s2)) s

/-- The packed fault-monitor word of `GETSTATE` (R219). -/
def statusWord (r : FaultRegs) : Long :=
  r.stallCount ++ 0#23 ++ BitVec.ofBool r.stallOut ++ 0#5 ++ r.motorState.code

/-- `GETSTATE` (R219). -/
def execGetstate (s : State) : Host.Outcome State Fault Refusal :=
  command (fun s1 => .ok (⟨.ok, statusWord s1.fm⟩, s1)) s

/-- `SETCUR mA` (R220). -/
def execSetcur (mA : Word) (s : State) : Host.Outcome State Fault Refusal :=
  command (fun s1 => .ok (⟨.ok, 0⟩, (s1.withFm { s1.fm with rmsCurrent := mA }).emit (.rmsCurrent mA))) s

/-- `GETCUR` (R221). -/
def execGetcur (s : State) : Host.Outcome State Fault Refusal :=
  command (fun s1 => .ok (⟨.ok, s1.fm.rmsCurrent.setWidth 64⟩, s1)) s

end Sys2Proof.Machine
end

