-- ==== Sys2Proof/Machine/CorrectionScheduler.lean ====
section
/-! DEFINITION. The correction scheduler: SCHED, SETDES, SETPOS, GETERR, GETPOS, CTEN and the events EV_TICK, EV_FINE, EV_STEPEDGE,
EV_SCHED (45_correction_scheduler.md). -/

namespace Sys2Proof.Machine

open Sys2Proof

/-- `StepError()`: the exact difference, not wrapped (R230). -/
def stepError (s : State) : Int := s.sch.desiredStep.toInt - s.sch.currentStep.toInt

/-- A position moved by one step, wrapping (R231). -/
def stepped (pos : U32) (dir : Dir) : U32 := wrap32 (pos.toInt + dirInt dir)

/-- `IssueStep(dir, updDes)` (R231). -/
def issueStep (dir : Dir) (updDes : Bool) (s : State) : State :=
  (s.withSch { s.sch with
    currentStep := stepped s.sch.currentStep dir,
    desiredStep := if updDes then stepped s.sch.desiredStep dir else s.sch.desiredStep }).emit (.step dir false updDes)

/-! ### The commands -/

/-- `SETDES pos` (R233). -/
def execSetdes (pos : U32) (s : State) : Host.Outcome State Fault Refusal :=
  command (fun s1 => .ok (⟨.ok, 0⟩, s1.withSch { s1.sch with desiredStep := pos })) s

/-- `SETPOS pos` (R234). -/
def execSetpos (pos : U32) (s : State) : Host.Outcome State Fault Refusal :=
  command (fun s1 => .ok (⟨.ok, 0⟩, s1.withSch { s1.sch with currentStep := pos })) s

/-- `GETERR` (R235). -/
def execGeterr (s : State) : Host.Outcome State Fault Refusal :=
  command (fun s1 => .ok (⟨.ok, dataOfInt (stepError s1)⟩, s1)) s

/-- `GETPOS` (R237). -/
def execGetpos (s : State) : Host.Outcome State Fault Refusal :=
  command (fun s1 => .ok (⟨.ok, s1.sch.desiredStep ++ s1.sch.currentStep⟩, s1)) s

/-- `CTEN enable` (R238). -/
def execCten (enable : Bool) (s : State) : Host.Outcome State Fault Refusal :=
  command (fun s1 => .ok (⟨.ok, 0⟩, s1.withSch { s1.sch with
    tickEnabled := enable, fineEnabled := enable && s1.sch.fineEnabled })) s

/-- `SCHED dir, rate, count` (R246): refused without the scheduler, then with a rate of 0 (30_encoding.md R92). -/
def execSched (dir : Dir) (rate : Word) (count : U32) (s : State) : Host.Outcome State Fault Refusal :=
  if s.cfg.schedPresent = false then refuseCommand .illegalCommand s
  else if rate = 0 then refuseCommand .illegalOperand s
  else command (fun s1 => .ok (⟨.ok, 0⟩, s1.withSch { s1.sch with
    schedDir := dir, schedRate := rate, schedCount := count, schedActive := decide (0 < count.toNat) })) s

/-! ### The PID policy -/

/-- The default PID law: output, integrator, previous error (R240). -/
def textbookLaw (c : Cfg) (e integ prev : Int) : Fx × Int × BitVec 34 :=
  let i := clamp (integ + e) (-(c.pidILimit : Int)) c.pidILimit
  (c.kp * e + c.ki * i + c.kd * (e - prev), i, BitVec.ofInt 34 e)

/-- `CFG.PID_LAW` (R240): another law is a free function, and its integrator is kept inside the range of 10_state.md R25
(DEDUCED, log 3). -/
def pidLaw (c : Cfg) (e integ prev : Int) : Fx × Int × BitVec 34 :=
  match c.pidLaw with
  | .textbook => textbookLaw c e integ prev
  | .other n =>
    let r := Config.otherPidLaw n e integ prev
    (r.1, clamp r.2.1 (-(c.pidILimit : Int)) c.pidILimit, r.2.2)

/-- The stepping frequency of a PID output: whole hertz, at most `FREQ_MAX` (R241). -/
def pidFreq (c : Cfg) (out : Fx) : Nat := min (out.natAbs / 65536) c.freqMax

/-- The fine timer after a PID output: disarmed below the gate, else armed at the frequency and direction (R241). -/
def armFine (c : Cfg) (out : Fx) (r : SchedRegs) : SchedRegs :=
  let f := pidFreq c out
  if f = 0 ∨ f < c.pidMinFreq then { r with fineEnabled := false }
  else { r with fineFreq := BitVec.ofNat 32 f, fineDir := dirOf out, fineEnabled := true }

/-- The integrator as `pidInteg` stores it, an i32 (10_state.md R25); outside 32 bits the spec states no stored value: it is free
(DESIGN CHOICE, log 28). -/
def storeInteg (x : Int) : U32 :=
  if -2147483648 ≤ x ∧ x ≤ 2147483647 then BitVec.ofInt 32 x else Config.wideIntegrator x

/-- `PidStep(e)` (R241); the law's output is an Fx result and fits the stored width, or U7 (00_scope.md R12). -/
def pidStep (e : Int) (s : State) : Except Fault State :=
  let r := pidLaw s.cfg e s.sch.pidInteg.toInt s.sch.pidPrevErr.toInt
  match fxCheck s.cfg r.1 with
  | .error f => .error f
  | .ok out => .ok (s.withSch (armFine s.cfg out { s.sch with pidInteg := storeInteg r.2.1, pidPrevErr := r.2.2 }))

/-! ### The events -/

/-- The correction of an error out of tolerance, by policy (R236 label T5). -/
def correct (e : Int) (s : State) : Except Fault State :=
  match s.cfg.correctionPolicy with
  | .direct => .ok (issueStep (dirOf e) false s)
  | .pid => pidStep e s

/-- `fineEnabled <- 0`. -/
def disarmFine (s : State) : State := s.withSch { s.sch with fineEnabled := false }

/-- The tick once the motor is on: labels T4 to T6 of R236. -/
def tickCorrection (s : State) : Except Fault State :=
  let e := stepError s
  if inTolerance e then .ok (clearStall (disarmFine s)) else (correct e s).map (stallEval e)

/-- The correction tick: labels T0 to T6 of R236. -/
def tick (s : State) : Except Fault State :=
  if s.sch.tickEnabled = false then .ok s
  else if s.fm.motorState = .forcedDisabled ∨ s.fm.motorState = .overtemperature then .ok s
  else if s.env.enableIn = false ∧ s.fm.motorState ≠ .forcedEnabled then
    .ok (setStallOut false (setMotorState .disabled false s))
  else tickCorrection (if s.fm.motorState = .forcedEnabled then s else setMotorState .enabled false s)

/-- `EV_TICK` (R236). -/
def execEvTick (s : State) : Host.Outcome State Fault Refusal := handler tick s

/-- `EV_FINE` (R242). -/
def execEvFine (s : State) : Host.Outcome State Fault Refusal :=
  handler (fun s1 => .ok (if s1.sch.fineEnabled then issueStep s1.sch.fineDir false s1 else s1)) s

/-- The direction of the input `dir_in`: 0 is `+1` (R243, 10_state.md R37). -/
def dirIn (s : State) : Dir := Dir.ofBit s.env.dirIn

/-- `EV_STEPEDGE` (R243). -/
def execEvStepedge (s : State) : Host.Outcome State Fault Refusal :=
  handler (fun s1 => .ok (s1.withSch { s1.sch with desiredStep := stepped s1.sch.desiredStep (dirIn s1) })) s

/-- One firing of an armed schedule: a step, the countdown, disarmed at zero (R247). -/
def schedFire (s : State) : State :=
  let s1 := issueStep s.sch.schedDir s.cfg.schedUpdateDesired s
  let n := s1.sch.schedCount - 1
  s1.withSch { s1.sch with schedCount := n, schedActive := s1.sch.schedActive && n != 0 }

/-- `EV_SCHED` (R247). -/
def execEvSched (s : State) : Host.Outcome State Fault Refusal :=
  handler (fun s1 => .ok (if s1.cfg.schedPresent && s1.sch.schedActive then schedFire s1 else s1)) s

end Sys2Proof.Machine
end

