-- ==== Sys2Proof/Machine/CriticalSection.lean ====
section
/-! DEFINITION. CSENTER and CSEXIT (40_critical_section.md). -/

namespace Sys2Proof.Machine

open Sys2Proof

/-- The response that reports the nesting depth (R132, R133). -/
def depthReply (s : State) : Reply := ⟨.ok, s.csCount.setWidth 64⟩

/-- `CSENTER` (R132). -/
def execCsenter (s : State) : Host.Outcome State Fault Refusal :=
  match csEnter s with
  | .error f => .fault f
  | .ok s1 => answer (.ok (depthReply s1, s1))

/-- `CSEXIT` (R133). -/
def execCsexit (s : State) : Host.Outcome State Fault Refusal :=
  match csExit s with
  | .error f => .fault f
  | .ok s1 => answer (.ok (depthReply s1, s1))

end Sys2Proof.Machine
end

