-- ==== Sys2Proof/Machine/MotionEstimator.lean ====
section
/-! DEFINITION. The motion estimator: ANGLE, AREV, AANGLE, SPEED, ACCEL, TEMP, ZERO, SETOFS (43_motion_estimator.md). Every read
of this family blocks until an attempt is `Ok` (R180). One attempt that fails ends the step, with the command in
`State.busy`; each later step makes one more attempt (log 7). An attempt that is `Ok` goes on in the same step to
the next read or to the end of the command. -/

namespace Sys2Proof.Machine

open Sys2Proof

/-! ### What the commands do with the words read -/

/-- `RevSample` on the revolution word (R183). -/
def revSample (w : Word) (s : State) : Int := rawRev s.cfg w - s.est.startupRevOfs.toInt

/-- The angle of an angle word, offsets subtracted (R181). -/
def angleOf (w : Word) (s : State) : Fx := rawAngle w - (s.est.startupAngleOfs + s.est.calibOfs)

/-- `AngleSample` on the angle word: the sample feeds channel 0 (R181). -/
def angleSample (w : Word) (s : State) : Except Fault (Fx × State) :=
  match maAdd .angle (angleOf w s) s with
  | .error f => .error f
  | .ok s1 => .ok (angleOf w s, s1)

/-- `AbsAngleSample` on the revolution and the angle word: the mean of channel 1 (R185). -/
def absAngleSample (rev w : Word) (s : State) : Except Fault (Fx × State) :=
  match angleSample w s with
  | .error f => .error f
  | .ok (a, s1) =>
    match fxCheck s.cfg (revSample rev s * fxTurn) with
    | .error f => .error f
    | .ok turns =>
      match maAdd .absAngle (turns + a) s1 with
      | .error f => .error f
      | .ok s2 => .ok (maValue .absAngle s2, s2)

/-- `ANGLE useAverage` once its word is read (R182). -/
def finishAngle (useAverage : Bool) (w : Word) (s : State) : Except Fault (Reply × State) :=
  match angleSample w s with
  | .error f => .error f
  | .ok (a, s1) => .ok (⟨.ok, dataOfInt (if useAverage then maValue .angle s1 else a)⟩, s1)

/-- `AREV` once its word is read (R184). -/
def finishArev (w : Word) (s : State) : Except Fault (Reply × State) :=
  .ok (⟨.ok, dataOfInt (revSample w s)⟩, s)

/-- `AANGLE` once both words are read (R186). -/
def finishAangle (rev w : Word) (s : State) : Except Fault (Reply × State) :=
  match absAngleSample rev w s with
  | .error f => .error f
  | .ok (a, s1) => .ok (⟨.ok, dataOfInt a⟩, s1)

/-- A derivative estimate: `num / den`, with `num` the scaled angle difference, into a channel, and the shared last sample
(R187, R189). The numerator fits the stored width, or U7. -/
def derivative (ch : Chan) (a : Fx) (num den : Int) (now : U32) (s : State) : Except Fault (Reply × State) :=
  match fxCheck s.cfg num with
  | .error f => .error f
  | .ok n =>
    match maAdd ch (tdiv n den) s with
    | .error f => .error f
    | .ok s1 =>
      .ok (⟨.ok, dataOfInt (maValue ch s1)⟩, s1.withEst { s1.est with lastAngle := a, lastTime := now })

/-- `SPEED` under `FiniteDifference` once both words are read (R187); no transition where no time has passed (U4). -/
def finishSpeedDiff (now : U32) (rev w : Word) (s : State) : Except Fault (Reply × State) :=
  let dt := usub32 now s.est.lastTime
  if dt = 0 then .error .zeroInterval
  else
    match absAngleSample rev w s with
    | .error f => .error f
    | .ok (a, s1) => derivative .speed a ((a - s.est.lastAngle) * 1000000) dt now s1

/-- `SPEED` under `SpeedRegister` once its burst is read (R188). -/
def finishSpeedReg (d : List Word) (s : State) : Except Fault (Reply × State) :=
  match maAdd .speed (rawSpeed s.cfg d * speedScaleOf s.cfg (speedMode s.cfg d)) s with
  | .error f => .error f
  | .ok s1 => .ok (⟨.ok, dataOfInt (maValue .speed s1)⟩, s1)

/-- `ACCEL` once both words are read (R189); no transition where no time has passed (U4). -/
def finishAccel (now : U32) (rev w : Word) (s : State) : Except Fault (Reply × State) :=
  let dt := usub32 now s.est.lastTime
  if dt = 0 then .error .zeroInterval
  else
    match absAngleSample rev w s with
    | .error f => .error f
    | .ok (a, s1) =>
      derivative .accel a ((a - s.est.lastAngle) * 1000000000000) ((dt : Int) * dt) now s1

/-- `TempDecode(w)` (R191). -/
def tempDecode (c : Cfg) (w : Word) : Fx := fxdiv (rawTemp c w * 65536 + c.tempOffset) c.tempDiv

/-- `TEMP` once its word is read (R192). -/
def finishTemp (now : U32) (w : Word) (s : State) : Except Fault (Reply × State) :=
  match maAdd .temp (tempDecode s.cfg w) s with
  | .error f => .error f
  | .ok s1 =>
    let t := maValue .temp s1
    .ok (⟨.ok, dataOfInt t⟩, otEval t now s1)

/-- `ZERO` once both words are read (R193). -/
def finishZero (rev w : Word) (s : State) : Except Fault (Reply × State) :=
  match angleSample w s with
  | .error f => .error f
  | .ok (a, s1) =>
    match fxCheck s.cfg (s.est.startupAngleOfs + a) with
    | .error f => .error f
    | .ok ofs =>
      .ok (⟨.ok, 0⟩, s1.withEst { s1.est with
        startupRevOfs := wrap32 (s.est.startupRevOfs.toInt + revSample rev s), startupAngleOfs := ofs })

/-! ### The blocking read (R180) -/

/-- The commands that read the revolution register first and the angle register then (R185, R193). -/
def EstOp.readsBoth : EstOp → Bool
  | .angle _ => false
  | .arev => false
  | .aangle => true
  | .speedDiff => true
  | .speedReg => false
  | .accel => true
  | .temp => false
  | .zero => true

/-- The nesting a command adds outside `ReadRegister`: itself, then absolute angle, then angle or revolution
(40_critical_section.md R134, log 8). -/
def EstOp.depth : EstOp → Nat
  | .angle _ => 1
  | .arev => 1
  | .aangle => 2
  | .speedDiff => 3
  | .speedReg => 1
  | .accel => 3
  | .temp => 1
  | .zero => 2

/-- The register and length of the last read of a command. -/
def EstOp.lastTarget (c : Cfg) : EstOp → RegNum × BitVec 4
  | .angle _ => (c.regAngle, 1)
  | .arev => (c.regRev, 1)
  | .aangle => (c.regAngle, 1)
  | .speedDiff => (c.regAngle, 1)
  | .speedReg => (c.regSpeed, 4)
  | .accel => (c.regAngle, 1)
  | .temp => (c.regTemp, 1)
  | .zero => (c.regAngle, 1)

/-- The command once all its words are read: `rev` the revolution word of a command that reads both, `d` the words
of its last read. -/
def finishOp (op : EstOp) (now : U32) (rev : Word) (d : List Word) (s : State) : Except Fault (Reply × State) :=
  let w := d.getD 0 0
  match op with
  | .angle useAverage => finishAngle useAverage w s
  | .arev => finishArev w s
  | .aangle => finishAangle rev w s
  | .speedDiff => finishSpeedDiff now rev w s
  | .speedReg => finishSpeedReg d s
  | .accel => finishAccel now rev w s
  | .temp => finishTemp now w s
  | .zero => finishZero rev w s

/-- The end of an estimator command: the sections it holds are left, then it responds. -/
def endCommand (op : EstOp) (r : Reply) (s : State) : Host.Outcome State Fault Refusal :=
  match csExitMany op.depth (s.withBusy none) with
  | .error f => .fault f
  | .ok s1 => answer (.ok (r, s1))

/-- After a failed attempt: `RetryExhausted` where the bound is finite and spent, else the command goes on with
another attempt at the next step (R180, 70_reset_and_hazards.md R301). -/
def afterFailure (p : InFlight) (s : State) : Host.Outcome State Fault Refusal :=
  let again : Host.Outcome State Fault Refusal := .next (s.withBusy (some { p with fails := p.fails + 1 }))
  match s.cfg.maxRetries with
  | none => again
  | some k => if k < p.fails + 1 then endCommand p.op ⟨.retryExhausted, 0⟩ s else again

/-- One attempt of the last read of a command, and its end where the attempt is `Ok`. -/
def attemptLast (p : InFlight) (rev : Word) (s : State) : Host.Outcome State Fault Refusal :=
  let t := p.op.lastTarget s.cfg
  match readRegister t.1 t.2 true s with
  | .error f => .fault f
  | .ok ((d, k), s1) =>
    if k = .ok then
      match finishOp p.op p.now rev d s1 with
      | .error f => .fault f
      | .ok (r, s2) => endCommand p.op r s2
    else afterFailure p s1

/-- One attempt of the read a command stands at (R180). A command that reads both registers reads the revolution
register first; its angle read then begins in the same step with no failed attempts. -/
def attempt (p : InFlight) (s : State) : Host.Outcome State Fault Refusal :=
  match p.op.readsBoth, p.rev with
  | true, none =>
    match readRegister s.cfg.regRev 1 true s with
    | .error f => .fault f
    | .ok ((d, k), s1) =>
      if k = .ok then
        attemptLast { p with rev := some (d.getD 0 0), fails := 0 } (d.getD 0 0) s1
      else afterFailure p s1
  | true, some rev => attemptLast p rev s
  | false, _ => attemptLast p 0 s

/-- An estimator command: `now` sampled, the sections entered, the first attempt made. -/
def startCommand (op : EstOp) (s : State) : Host.Outcome State Fault Refusal :=
  match csEnterMany op.depth s with
  | .error f => .fault f
  | .ok s1 => attempt ⟨op, s.env.now, none, 0⟩ s1

/-! ### The commands -/

/-- `ANGLE useAverage` (R182). -/
def execAngle (useAverage : Bool) (s : State) : Host.Outcome State Fault Refusal := startCommand (.angle useAverage) s

/-- `AREV` (R184). -/
def execArev (s : State) : Host.Outcome State Fault Refusal := startCommand .arev s

/-- `AANGLE` (R186). -/
def execAangle (s : State) : Host.Outcome State Fault Refusal := startCommand .aangle s

/-- `SPEED` (R187, R188): the strategy is the configuration's. -/
def execSpeed (s : State) : Host.Outcome State Fault Refusal :=
  match s.cfg.speedStrategy with
  | .finiteDifference => startCommand .speedDiff s
  | .speedRegister => startCommand .speedReg s

/-- `ACCEL` (R189). -/
def execAccel (s : State) : Host.Outcome State Fault Refusal := startCommand .accel s

/-- `TEMP` (R192). A zero divisor is no configuration of this hardware (U6). -/
def execTemp (s : State) : Host.Outcome State Fault Refusal :=
  if s.cfg.tempDiv = 0 then .refused .illFormedConfig else startCommand .temp s

/-- `ZERO` (R193). -/
def execZero (s : State) : Host.Outcome State Fault Refusal := startCommand .zero s

/-- `SETOFS offset` (R194). -/
def execSetofs (offset : U32) (s : State) : Host.Outcome State Fault Refusal :=
  command (fun s1 => .ok (⟨.ok, 0⟩, s1.withEst { s1.est with calibOfs := q1516 offset })) s

end Sys2Proof.Machine
end

