-- ==== Sys2Proof/Machine/MovingAverage.lean ====
section
/-! DEFINITION. MACFG, MAADD, MAVAL (41_moving_average.md). -/

namespace Sys2Proof.Machine

open Sys2Proof

/-- `MACFG ch, cap` (R140); a capacity outside `1 .. CFG.MA_MAX_CAP` is refused. -/
def execMacfg (ch : Chan) (cap : Word) (s : State) : Host.Outcome State Fault Refusal :=
  if 1 ≤ cap.toNat ∧ cap.toNat ≤ s.cfg.maMaxCap then
    command (fun s1 => .ok (⟨.ok, 0⟩, maConfigure ch cap.toNat s1)) s
  else refuseCommand .illegalOperand s

/-- `MAADD ch, sample` (R141). -/
def execMaadd (ch : Chan) (sample : U32) (s : State) : Host.Outcome State Fault Refusal :=
  command (fun s1 =>
    match maAdd ch (q1516 sample) s1 with
    | .error f => .error f
    | .ok s2 => .ok (⟨.ok, 0⟩, s2)) s

/-- `MAVAL ch` (R142). -/
def execMaval (ch : Chan) (s : State) : Host.Outcome State Fault Refusal :=
  command (fun s1 => .ok (⟨.ok, dataOfInt (maValue ch s1)⟩, s1)) s

end Sys2Proof.Machine
end

