-- ==== Sys2Proof/Machine/RegisterProtocol.lean ====
section
/-! DEFINITION. RDREG, RDBURST, WRREG, GETBF, SETBF, VALSAFE, SRESET, TXBLD, TXBRD (42_register_protocol.md). -/

namespace Sys2Proof.Machine

open Sys2Proof

/-- A read as the body of a command: the kind of its one attempt and data made from the words read. -/
def readBody (reg : RegNum) (n : BitVec 4) (safe : Bool) (data : List Word → Long) (s : State) :
    Except Fault (Reply × State) :=
  match readRegister reg n safe s with
  | .error f => .error f
  | .ok ((d, k), s1) => .ok (⟨k, data d⟩, s1)

/-- `zext(d[0])`. -/
def firstWord (d : List Word) : Long := (d.getD 0 0).setWidth 64

/-- `{w3, w2, w1, w0}`, `wi = d[i]` or 0 past the end (R161). -/
def fourWords (d : List Word) : Long := d.getD 3 0 ++ d.getD 2 0 ++ d.getD 1 0 ++ d.getD 0 0

/-- `RDREG safe, reg` (R156). -/
def execRdreg (safe : Bool) (reg : RegNum) (s : State) : Host.Outcome State Fault Refusal :=
  command (readBody reg 1 safe firstWord) s

/-- `RDBURST safe, reg, count` (R161); a count of 0 is refused. -/
def execRdburst (safe : Bool) (reg : RegNum) (count : BitVec 4) (s : State) : Host.Outcome State Fault Refusal :=
  if count = 0 then refuseCommand .illegalOperand s
  else command (readBody reg count safe fourWords) s

/-- `WRREG reg, value` (R162). -/
def execWrreg (reg : RegNum) (value : Word) (s : State) : Host.Outcome State Fault Refusal :=
  command (fun s1 => .ok (⟨.ok, 0⟩, memWrite reg value s1)) s

/-- The body of `GETBF` on a field (R157). -/
def getField (f : Descriptor) (s : State) : Except Fault (Reply × State) :=
  if permitsRead f.mode then
    match readRegister f.reg 1 true s with
    | .error e => .error e
    | .ok ((_, k), s1) =>
      match s1.slot f.slot with
      | none => .error .cacheSlotUnread
      | some w => .ok (⟨k, (extractField f w).setWidth 64⟩, s1)
  else .ok (⟨.fieldNotReadable, 0⟩, s)

/-- `GETBF idx` (R157); an index past the table is refused. -/
def execGetbf (idx : Byte) (s : State) : Host.Outcome State Fault Refusal :=
  match s.cfg.fieldTable[idx.toNat]? with
  | none => refuseCommand .illegalOperand s
  | some f => command (getField f) s

/-- The body of `SETBF` on a field (R159); a slot that holds `none` has no transition (U3). -/
def setField (f : Descriptor) (x : Word) (s : State) : Except Fault (Reply × State) :=
  if permitsWrite f.mode then
    match s.slot f.slot with
    | none => .error .cacheSlotUnread
    | some w =>
      let m := mergeField f w x
      .ok (⟨.ok, m.setWidth 64⟩, memWrite f.reg m (s.setSlot f.slot m))
  else .ok (⟨.fieldNotWritable, 0⟩, s)

/-- `SETBF idx, value` (R159); an index past the table is refused. -/
def execSetbf (idx : Byte) (value : Word) (s : State) : Host.Outcome State Fault Refusal :=
  match s.cfg.fieldTable[idx.toNat]? with
  | none => refuseCommand .illegalOperand s
  | some f => command (setField f value) s

/-- The data of `VALSAFE`: the local checksum where it was computed (R163). -/
def localChecksum (c : Cfg) (t : Txb) (k : Status) : Long :=
  if k = .ok ∨ k = .crcMismatch then (checksum c t.crcBytes).setWidth 64 else 0

/-- `VALSAFE` (R163). -/
def execValsafe (s : State) : Host.Outcome State Fault Refusal :=
  command (fun s1 =>
    let k := validateAndReset s1
    .ok (⟨k.1, localChecksum s1.cfg s1.txb k.1⟩, k.2)) s

/-- `SRESET` (R164). -/
def execSreset (s : State) : Host.Outcome State Fault Refusal :=
  command (fun s1 => .ok (⟨.ok, 0⟩, safetyReset s1)) s

/-- `element(idx) <- v` (R165, R166). -/
def Txb.write (t : Txb) (e : TxbElem) (v : Word) : Txb :=
  match e with
  | .cmd => { t with cmd := v }
  | .data i => { t with data := t.data.set i.val v }
  | .safety => { t with safety := v }
  | .count => { t with count := v.setWidth 4 }

/-- `element(idx)` (R166, R167). -/
def Txb.read (t : Txb) (e : TxbElem) : Word :=
  match e with
  | .cmd => t.cmd
  | .data i => t.data.getD i.val 0
  | .safety => t.safety
  | .count => t.count.setWidth 16

/-- `TXBLD idx, value` (R165); a count above 15 is refused. -/
def execTxbld (elem : TxbElem) (value : Word) (s : State) : Host.Outcome State Fault Refusal :=
  if elem.takes value then command (fun s1 => .ok (⟨.ok, 0⟩, s1.withTxb (s1.txb.write elem value))) s
  else refuseCommand .illegalOperand s

/-- `TXBRD idx` (R167). -/
def execTxbrd (elem : TxbElem) (s : State) : Host.Outcome State Fault Refusal :=
  command (fun s1 => .ok (⟨.ok, (s1.txb.read elem).setWidth 64⟩, s1)) s

end Sys2Proof.Machine
end

