-- ==== Sys2Proof/Machine/Dispatch.lean ====
section
/-! DEFINITION. The dispatch of an instruction to its meaning, one arm for each row of spec/opcode_table.json. -/

namespace Sys2Proof.Machine

open Sys2Proof

/-- Run an instruction to completion, or to the first failed attempt of a blocking read. -/
def exec (i : Instr) (s : State) : Host.Outcome State Fault Refusal :=
  match i with
  | .csenter => Sys2Proof.Machine.execCsenter s
  | .csexit => Sys2Proof.Machine.execCsexit s
  | .macfg ch cap => Sys2Proof.Machine.execMacfg ch cap s
  | .maadd ch sample => Sys2Proof.Machine.execMaadd ch sample s
  | .maval ch => Sys2Proof.Machine.execMaval ch s
  | .rdreg safe reg => Sys2Proof.Machine.execRdreg safe reg s
  | .rdburst safe reg count => Sys2Proof.Machine.execRdburst safe reg count s
  | .wrreg reg value => Sys2Proof.Machine.execWrreg reg value s
  | .getbf idx => Sys2Proof.Machine.execGetbf idx s
  | .setbf idx value => Sys2Proof.Machine.execSetbf idx value s
  | .valsafe => Sys2Proof.Machine.execValsafe s
  | .sreset => Sys2Proof.Machine.execSreset s
  | .txbld elem value => Sys2Proof.Machine.execTxbld elem value s
  | .txbrd elem => Sys2Proof.Machine.execTxbrd elem s
  | .angle useAverage => Sys2Proof.Machine.execAngle useAverage s
  | .arev => Sys2Proof.Machine.execArev s
  | .aangle => Sys2Proof.Machine.execAangle s
  | .speed => Sys2Proof.Machine.execSpeed s
  | .accel => Sys2Proof.Machine.execAccel s
  | .temp => Sys2Proof.Machine.execTemp s
  | .zero => Sys2Proof.Machine.execZero s
  | .setofs offset => Sys2Proof.Machine.execSetofs offset s
  | .setstate state clearErrors => Sys2Proof.Machine.execSetstate state clearErrors s
  | .getstate => Sys2Proof.Machine.execGetstate s
  | .setcur mA => Sys2Proof.Machine.execSetcur mA s
  | .getcur => Sys2Proof.Machine.execGetcur s
  | .sched dir rate count => Sys2Proof.Machine.execSched dir rate count s
  | .setdes pos => Sys2Proof.Machine.execSetdes pos s
  | .setpos pos => Sys2Proof.Machine.execSetpos pos s
  | .geterr => Sys2Proof.Machine.execGeterr s
  | .getpos => Sys2Proof.Machine.execGetpos s
  | .cten enable => Sys2Proof.Machine.execCten enable s
  | .evStepedge => Sys2Proof.Machine.execEvStepedge s
  | .evSched => Sys2Proof.Machine.execEvSched s
  | .evTick => Sys2Proof.Machine.execEvTick s
  | .evFine => Sys2Proof.Machine.execEvFine s

end Sys2Proof.Machine
end

