-- ==== Sys2Proof/Machine/Fetch.lean ====
section
/-! DEFINITION. How inputs arrive and what CORE does next (10_state.md R37, 60_exceptions.md R267): the arrival of a moment, the reset, the
choice between a command in flight, a deliverable event, the word on the command port, and idling. -/

namespace Sys2Proof.Machine

open Sys2Proof

/-- The environment once a moment has arrived: levels as it says, a presented word behind those that wait (log 5). -/
def Env.arrive (e : Env) (m : Moment) (rest : List Moment) : Env :=
  { e with now := m.now, enableIn := m.enableIn, dirIn := m.dirIn, port := e.port ++ m.command.toList, moments := rest }

/-- A moment without reset: inputs change, requests set their pending bits (10_state.md R32, R37). -/
def arrive (m : Moment) (rest : List Moment) (s : State) : State :=
  request m.requests (s.withEnv (s.env.arrive m rest))

/-- A moment with reset: every element takes its value of R39, a command in progress is abandoned and the requests of
the moment are dropped (R290, log 12). The spec is silent on a command word presented in that very moment: it stays on the port,
behind the words that wait, and is accepted after reset (DESIGN CHOICE, log 29). -/
def applyReset (m : Moment) (rest : List Moment) (s : State) : State :=
  State.resetIn s.cfg (s.env.arrive m rest)

/-- What CORE does next. -/
inductive Work where
  | resume (p : InFlight)
  | run (i : Instr)
  | refuse (status : Status)
  | idle
deriving DecidableEq, Repr

/-- The word on the port is accepted: taken off, decoded whole (20_memory.md R76), run or refused (30_encoding.md R92). -/
def acceptWord (cw : Long) (rest : List Long) (s : State) : Work × State :=
  let s1 := s.withEnv { s.env with port := rest }
  match decode s.cfg cw with
  | .instr i => (.run i, s1)
  | .illegalCommand => (.refuse .illegalCommand, s1)
  | .illegalOperand => (.refuse .illegalOperand, s1)

/-- The choice of R267: nothing starts while a command is in flight; deliverable events come before commands. -/
def nextWork (s : State) : Work × State :=
  match s.busy with
  | some p => (.resume p, s)
  | none =>
    match deliverable s with
    | some k => (.run (eventOf k), deliver k s)
    | none =>
      match s.env.port with
      | [] => (.idle, s)
      | cw :: rest => acceptWord cw rest s

/-- A command word placed where the next step accepts it: first on the port, no command in flight, nothing arriving,
no deliverable event (log 13). -/
def placeCommand (cw : Long) (s : State) : State :=
  ((s.withBusy none).withPending (if s.masked then s.pending else 0)).withEnv
    { s.env with port := cw :: s.env.port, moments := [] }

/-- An event vector placed where the next step delivers it: pending, unmasked, no command in flight, nothing arriving
(log 13). -/
def placeEvent (v : BitVec 4) (s : State) : State :=
  (((s.withBusy none).withPending v).withCs 0).withEnv { s.env with moments := [] }

end Sys2Proof.Machine
end

