-- ==== Sys2Proof/Machine/Step.lean ====
section
/-! DEFINITION. One step of the machine, and where a word is placed so that the next step runs it. -/

namespace Sys2Proof.Machine

open Sys2Proof

/-- What a piece of work does. -/
def perform (w : Work × State) : Host.Outcome State Fault Refusal :=
  match w.1 with
  | .resume p => attempt p w.2
  | .run i => exec i w.2
  | .refuse status => refuseCommand status w.2
  | .idle => .next w.2

/-- One step: what arrived from outside is taken in, then CORE does the one thing R267 says comes next. A configuration
that is none of this hardware is refused (93_implementation_defined.md U5, U6). -/
def step (s : State) : Host.Outcome State Fault Refusal :=
  if s.cfg.wf then
    match s.env.moments with
    | [] => perform (nextWork s)
    | m :: rest =>
      if m.reset then .next (applyReset m rest s)
      else perform (nextWork (arrive m rest s))
  else .refused .illFormedConfig

/-- The state with an instruction placed where the next step runs it: a row of at most 8 bits is an event vector, a
longer one a command word (log 13). -/
def State.withFetchWord (s : State) (nbits w : Nat) : State :=
  if nbits ≤ 8 then placeEvent (BitVec.ofNat 4 w) s else placeCommand (BitVec.ofNat 64 w) s

end Sys2Proof.Machine
end

