-- ==== Sys2Proof/Safety.lean ====
section
/-! DEFINITION. What the statements speak of: the invariants of 10_state.md R34 and of the state tables, what a good answer of the
sensor is, and the conditions under which a command or an event runs to its end. -/

namespace Sys2Proof.Machine

open Sys2Proof

/-! ### The invariant of the state between two steps -/

/-- The live samples of a channel, oldest first: `buf[(head - fill + i) mod cap]` (10_state.md R26). -/
def Filter.live (m : Filter) : List Fx :=
  (List.range m.fill).map (fun i => m.buf.getD ((m.head + m.cap - m.fill + i) % m.cap) 0)

/-- A channel is in order: `fill <= cap`, `head < cap`, the capacity legal, the sum exact (10_state.md R26, R34). -/
def Filter.Ok (maxCap : Nat) (m : Filter) : Prop :=
  1 ≤ m.cap ∧ m.cap ≤ maxCap ∧ m.fill ≤ m.cap ∧ m.head < m.cap ∧ m.buf.length = m.cap ∧ m.sum = m.live.sum

/-- Every channel is in order. -/
def FiltersOk (s : State) : Prop := ∀ ch, (s.ma.get ch).Ok s.cfg.maMaxCap

/-- The PID integrator is inside its bound (10_state.md R34). -/
def PidBounded (s : State) : Prop :=
  -(s.cfg.pidILimit : Int) ≤ s.sch.pidInteg.toInt ∧ s.sch.pidInteg.toInt ≤ s.cfg.pidILimit

/-- An armed schedule has steps to issue (10_state.md R34, 45_correction_scheduler.md R248). -/
def SchedArmed (s : State) : Prop := s.sch.schedActive = true → 0 < s.sch.schedCount.toNat

/-- The buffers have the sizes of 10_state.md R27 and R28. -/
def SizesOk (s : State) : Prop := s.cache.length = s.cfg.nslots ∧ s.txb.data.length = 15

/-- Between transactions chip select is deasserted and the bus mode is push-pull (10_state.md R36, 20_memory.md R67 to R69). -/
def BusIdle (s : State) : Prop := s.bus = ⟨false, .pushPull⟩

/-- A command in flight holds the sections it entered, so the events are masked (20_memory.md R75). -/
def BusyHolds (s : State) : Prop := ∀ p, s.busy = some p → p.op.depth ≤ s.csCount.toNat

/-- What holds between two steps (10_state.md R34, with the sizes and the transport lines of the state tables). -/
def StateInv (s : State) : Prop :=
  s.cfg.wf = true ∧ FiltersOk s ∧ PidBounded s ∧ SchedArmed s ∧ SizesOk s ∧ BusIdle s ∧ BusyHolds s

/-! ### The section -/

/-- The section can be entered `n` more times (40_critical_section.md R130, R134). -/
def CanEnter (n : Nat) (s : State) : Prop := s.csCount.toNat + n ≤ 255

/-! ### What the sensor answers, and the state after each transaction (20_memory.md R66 to R69) -/

/-- The answer to exchange `k` from now: the listed one, else the free one (R66, log 4). -/
def answerAt (e : Env) (k : Nat) : Byte × Byte := (e.answers[k]?).getD (Config.sensorAnswer (e.oracle + k))

/-- The word received in exchange `k` from now (R60). -/
def wordAt (e : Env) (k : Nat) : Word := wordOf (answerAt e k).1 (answerAt e k).2

/-- The environment after `n` exchanges. -/
def answered (n : Nat) (e : Env) : Env := { e with answers := e.answers.drop n, oracle := e.oracle + n }

/-- Exchange `k` from now of the word `w`, as the trace records it. -/
def exchanged (e : Env) (k : Nat) (w : Word) : TraceItem := .xfer (hi8 w) (lo8 w) (answerAt e k).1 (answerAt e k).2

/-- The data words of a read of `n` words that starts now: exchange 0 is the address phase (R67). -/
def readWords (n : Nat) (e : Env) : List Word := (List.range n).map (fun i => wordAt e (i + 1))

/-- The transport operations of a read of `n` words (R67). -/
def readItems (c : Cfg) (w : Word) (n : Nat) (e : Env) : List TraceItem :=
  [.selAssert, exchanged e 0 w, .busMode .openDrain] ++
    (List.range (n + 1)).map (fun i => exchanged e (i + 1) c.blankWord) ++ [.busMode .pushPull, .selDeassert]

/-- The state after a read transaction (R67). -/
def afterMemRead (reg : RegNum) (n : BitVec 4) (safe : Bool) (s : State) : State :=
  let w := addrWord true safe reg n
  { s with
    txb := ⟨w, n, readWords n.toNat s.env ++ s.txb.data.drop n.toNat, wordAt s.env (n.toNat + 1)⟩,
    bus := ⟨false, .pushPull⟩,
    trace := s.trace ++ readItems s.cfg w n.toNat s.env,
    env := answered (n.toNat + 2) s.env }

/-- The state after a read transaction and its cache update (42_register_protocol.md R150). -/
def afterRead (reg : RegNum) (n : BitVec 4) (safe : Bool) (s : State) : State :=
  updateCache reg (readWords n.toNat s.env) (afterMemRead reg n safe s)

/-- The state after a write transaction (R68). -/
def afterMemWrite (reg : RegNum) (v : Word) (s : State) : State :=
  { s with
    bus := { s.bus with selected := false },
    trace := s.trace ++
      [.selAssert, exchanged s.env 0 (addrWord false false reg 1), exchanged s.env 1 v, .selDeassert],
    env := answered 2 s.env }

/-- The state after a safety reset (R69). -/
def afterSafetyReset (s : State) : State :=
  { s with
    bus := ⟨false, .pushPull⟩,
    trace := s.trace ++
      [.selAssert, exchanged s.env 0 s.cfg.safetyResetWord, .busMode .openDrain, exchanged s.env 1 s.cfg.blankWord,
        exchanged s.env 2 s.cfg.blankWord, .busMode .pushPull, .selDeassert],
    env := answered 3 s.env }

/-- The kind of a read attempt that starts now (42_register_protocol.md R150, R153). -/
def readKind (reg : RegNum) (n : BitVec 4) (safe : Bool) (s : State) : Status :=
  if safe then validate s.cfg (afterMemRead reg n safe s).txb else .ok

/-- The state after a read attempt, the safety reset of its kind included (42_register_protocol.md R150, R154). -/
def afterAttempt (reg : RegNum) (n : BitVec 4) (safe : Bool) (s : State) : State :=
  let k := readKind reg n safe s
  if k = .systemError ∨ k = .invalidAngleError ∨ (k = .interfaceAccessError ∧ s.cfg.safetyResetOnIface = true) then
    afterSafetyReset (afterRead reg n safe s)
  else afterRead reg n safe s

/-! ### What the estimator's commands rely on -/

/-- A read attempt of the estimator that starts now is `Ok` (43_motion_estimator.md R180). -/
def ReadOk (reg : RegNum) (n : BitVec 4) (s : State) : Prop := readKind reg n true s = .ok

/-- The revolution read and then the angle read are `Ok` (R185, R193). -/
def BothReadsOk (s : State) : Prop :=
  ReadOk s.cfg.regRev 1 s ∧ ReadOk s.cfg.regAngle 1 (afterRead s.cfg.regRev 1 true s)

/-- The state after the two reads. -/
def afterBothReads (s : State) : State := afterRead s.cfg.regAngle 1 true (afterRead s.cfg.regRev 1 true s)

/-- A sample and the sum it makes fit the stored width (00_scope.md R12, 93_implementation_defined.md U7). -/
def SampleFits (ch : Chan) (x : Fx) (s : State) : Prop :=
  fxFits s.cfg x = true ∧ fxFits s.cfg ((s.ma.get ch).add x).sum = true

/-- A channel with one more sample (41_moving_average.md R141). -/
def fed (ch : Chan) (x : Fx) (s : State) : State := s.withMa (s.ma.set ch ((s.ma.get ch).add x))

/-- The mean of a channel once it holds one more sample (R142). -/
def meanWith (ch : Chan) (x : Fx) (s : State) : Fx :=
  tdiv ((s.ma.get ch).add x).sum (max ((s.ma.get ch).add x).fill 1 : Nat)

/-- The angle of a word of the angle register (43_motion_estimator.md R181). -/
def angleDegrees (s : State) (w : Word) : Fx :=
  (w.toNat % 32768 : Nat) * 720 - (s.est.startupAngleOfs + s.est.calibOfs)

/-- The revolution count of a word of the revolution register (R183). -/
def revolutions (s : State) (w : Word) : Int :=
  ((w.toNat / 2 ^ s.cfg.revShift : Nat) : Int).bmod 512 - s.est.startupRevOfs.toInt

/-- The absolute angle sample of a revolution and an angle word (R185). -/
def absoluteOf (s : State) (rev w : Word) : Fx := revolutions s rev * 23592960 + angleDegrees s w

/-- The results of the absolute angle sample of two words fit (U7). -/
def AbsoluteWordsFit (s : State) (rev w : Word) : Prop :=
  SampleFits .angle (angleDegrees s w) s ∧ fxFits s.cfg (revolutions s rev * 23592960) = true ∧
    SampleFits .absAngle (absoluteOf s rev w) s

/-- A state fed with the samples that two words make under the offsets of `s`: channel 0, then channel 1 (R185). -/
def fedAbsolute (s : State) (rev w : Word) (u : State) : State :=
  fed .absAngle (absoluteOf s rev w) (fed .angle (angleDegrees s w) u)

/-- The absolute angle sample of the words the next two reads bring: the angle word is exchange 4 (R185). -/
def absoluteDegrees (s : State) : Fx := absoluteOf s (wordAt s.env 1) (wordAt s.env 4)

/-- The results of that sample fit (U7). -/
def AbsoluteFits (s : State) : Prop := AbsoluteWordsFit s (wordAt s.env 1) (wordAt s.env 4)

/-- The state after an absolute angle sample: two reads, a sample into channel 0 and one into channel 1 (R185). -/
def afterAbsolute (s : State) : State := fedAbsolute s (wordAt s.env 1) (wordAt s.env 4) (afterBothReads s)

/-- A derivative estimate fits: its numerator, the quotient put into the channel, and the sum it makes (U7). -/
def DerivativeFits (ch : Chan) (num den : Int) (s : State) : Prop :=
  fxFits s.cfg num = true ∧ SampleFits ch (tdiv num den) s

/-- The estimator command an instruction is, if it is one that reads the sensor; `SPEED` by strategy (R187, R188). -/
def estOpOf (c : Cfg) : Instr → Option EstOp
  | .angle u => some (.angle u)
  | .arev => some .arev
  | .aangle => some .aangle
  | .speed => some (match c.speedStrategy with | .finiteDifference => .speedDiff | .speedRegister => .speedReg)
  | .accel => some .accel
  | .temp => some .temp
  | .zero => some .zero
  | _ => none

/-- The register and length of the first read of an estimator command (R185, R193: the revolution register first). -/
def firstTarget (c : Cfg) (op : EstOp) : RegNum × BitVec 4 :=
  if op.readsBoth then (c.regRev, 1) else op.lastTarget c

/-- The register and length of the read a command in flight stands at. -/
def currentTarget (c : Cfg) (p : InFlight) : RegNum × BitVec 4 :=
  if p.op.readsBoth = true ∧ p.rev = none then (c.regRev, 1) else p.op.lastTarget c

/-- The channels an instruction feeds or configures (41_moving_average.md R144). -/
def channelsOf (c : Cfg) : Instr → List Chan
  | .macfg ch _ => [ch]
  | .maadd ch _ => [ch]
  | .angle _ => [.angle]
  | .zero => [.angle]
  | .aangle => [.angle, .absAngle]
  | .speed => match c.speedStrategy with | .finiteDifference => [.angle, .absAngle, .speed] | .speedRegister => [.speed]
  | .accel => [.angle, .absAngle, .accel]
  | .temp => [.temp]
  | _ => []

/-! ### Events, responses and runs -/

/-- The instruction is one of the four events (30_encoding.md R94). -/
def isEvent : Instr → Bool
  | .evStepedge | .evSched | .evTick | .evFine => true
  | _ => false

/-- The trace item is a response (30_encoding.md R93). -/
def TraceItem.isResponse : TraceItem → Bool
  | .response _ _ => true
  | _ => false

/-- The trace item is an issued step (45_correction_scheduler.md R231). -/
def TraceItem.isStep : TraceItem → Bool
  | .step _ _ _ => true
  | _ => false

/-- The steps of a trace, in order. -/
def stepsOf (l : List TraceItem) : List TraceItem := l.filter TraceItem.isStep

/-- One instruction run `n` times in a row, as long as it gives a next state. -/
def repeatInstr (i : Instr) : Nat → State → Host.Outcome State Fault Refusal
  | 0, s => .next s
  | n + 1, s =>
    match exec i s with
    | .next t => repeatInstr i n t
    | .fault f => .fault f
    | .refused r => .refused r

end Sys2Proof.Machine
end

