-- ==== Sys2Proof/Certificates/Slice0/Obligations.lean ====
section
/-! DEFINITION. The statements for the provers. Each one's docstring says which rule of spec/ it formalises. -/

open Sys2Proof Sys2Proof.Machine

/-! ### Encoding -/

/-- Decoding the encoding of any instruction with operands in range gives it back (30_encoding.md R90 to R94). -/
def Obligations.DecodeInvertsEncode : Prop :=
  ∀ (c : Cfg) (i : Instr), i.wf c = true → decodeWire c (encode i) = .instr i

/-- A word that decodes to an instruction is that instruction's encoding, and its operands are in range: no bit of a
legal word is ignored (30_encoding.md R91, R92). -/
def Obligations.EncodeInvertsDecode : Prop :=
  ∀ (c : Cfg) (cw : Long) (i : Instr), decode c cw = .instr i → encode i = .command cw ∧ i.wf c = true

/-- The example words of the rules decode to the instructions the rules write them for. -/
def Obligations.WrittenWordsDecode : Prop :=
  decode Config.default 0x0100000000000000 = .instr .csenter ∧
  decode Config.default 0x1001000400000000 = .instr (.macfg .absAngle 4) ∧
  decode Config.default 0x11010000FFFE8000 = .instr (.maadd .absAngle 0xFFFE8000) ∧
  decode Config.default 0x2101000300000004 = .instr (.rdburst true 3 4) ∧
  decode Config.default 0x2404000000000002 = .instr (.setbf 4 2) ∧
  decode Config.default 0x3001000000000000 = .instr (.angle true) ∧
  decode Config.default 0x4081000000000000 = .instr (.setstate .disabled true) ∧
  decode Config.default 0x5001006400000005 = .instr (.sched .minus 100 5) ∧
  decodeEvent 8 = some .evStepedge ∧ decodeEvent 2 = some .evTick

/-- The illegal commands: an opcode that is none of the 32, and `0x50` when the scheduler is absent; 224 opcodes are
unknown (30_encoding.md R92, R106). -/
def Obligations.IllegalCommandExactly : Prop :=
  (∀ (c : Cfg) (cw : Long), decode c cw = .illegalCommand ↔
    ((cw.toNat / 2 ^ 56) ∉ [0x01, 0x02, 0x10, 0x11, 0x12, 0x20, 0x21, 0x22, 0x23, 0x24, 0x25, 0x26, 0x27, 0x28, 0x30,
        0x31, 0x32, 0x33, 0x34, 0x35, 0x36, 0x37, 0x40, 0x41, 0x42, 0x43, 0x50, 0x51, 0x52, 0x53, 0x54, 0x55]) ∨
      (cw.toNat / 2 ^ 56 = 0x50 ∧ c.schedPresent = false)) ∧
  ((List.range 256).filter (fun n => (opcodeRow (BitVec.ofNat 8 n)).isNone)).length = 224

/-- The address word (30_encoding.md R96), its four fields and the rule's examples. -/
def Obligations.AddressWord : Prop :=
  (∀ (rw safe : Bool) (reg : RegNum) (len : BitVec 4),
    (addrWord rw safe reg len).toNat = rw.toNat * 2 ^ 15 + safe.toNat * 2 ^ 14 + reg.toNat * 2 ^ 4 + len.toNat ∧
    (addrWord rw safe reg len).getLsbD 15 = rw ∧ (addrWord rw safe reg len).getLsbD 14 = safe ∧
    (addrWord rw safe reg len).extractLsb' 4 10 = reg ∧ (addrWord rw safe reg len).extractLsb' 0 4 = len) ∧
  addrWord true true 2 1 = 0xC021 ∧ addrWord true false 2 1 = 0x8021 ∧ addrWord true true 3 4 = 0xC034 ∧
  addrWord false false 6 1 = 0x0061

/-- A descriptor is what its packed word holds, and the default table packs to the words of R104 (30_encoding.md R101, R104). -/
def Obligations.DescriptorRoundTrip : Prop :=
  (∀ f : Descriptor, Descriptor.unpack f.pack = some f) ∧
  (∀ (w : Long) (f : Descriptor), Descriptor.unpack w = some f → f.pack = w) ∧
  Config.default.fieldTable.map Descriptor.pack =
    [0x0013FFF800000100, 0x001BFFF800000180, 0x00200FF800000200, 0x00281FF800000280, 0x4036000700000300,
      0x2030078200000300, 0xA030007800000300]

/-! ### The step -/

/-- A step accepts the word on the port where nothing comes before it, and runs the instruction it decodes to
(60_exceptions.md R267): the word leaves the port, `exec` does the rest. -/
def Obligations.StepRunsDecodedCommand : Prop :=
  ∀ (s : State) (cw : Long) (rest : List Long) (i : Instr),
    s.cfg.wf = true → s.env.moments = [] → s.busy = none → (s.csCount ≠ 0 ∨ s.pending = 0) →
    s.env.port = cw :: rest → decode s.cfg cw = .instr i →
      step s = exec i { s with env := { s.env with port := rest } }

/-- What arrives from outside between two steps (10_state.md R32, R37): the levels change, a request sets its pending bit and a second
one merges; then CORE does what it would have done from there. That arrivals are taken in at step boundaries is the model's
(log 5), and so is the port as a queue, on which a presented word goes behind those that wait (log 14). -/
def Obligations.StepTakesArrivals : Prop :=
  ∀ (s : State) (m : Moment) (rest : List Moment),
    s.cfg.wf = true → s.env.moments = m :: rest → m.reset = false →
      step s = perform (nextWork
        { s with
          pending := s.pending ||| m.requests,
          env := { s.env with
            now := m.now, enableIn := m.enableIn, dirIn := m.dirIn,
            port := s.env.port ++ m.command.toList, moments := rest } }) ∧
      ∀ k : Fin 4, ((s.pending ||| m.requests).getLsbD k.val = true ↔
        s.pending.getLsbD k.val = true ∨ m.requests.getLsbD k.val = true)

/-- With no command in flight and `csCount = 0`, the pending event of the largest line is delivered: its bit is cleared,
every other bit stays, and its handler runs (60_exceptions.md R267, R268). -/
def Obligations.StepDeliversHighestEvent : Prop :=
  ∀ (s : State) (k : Fin 4),
    s.cfg.wf = true → s.env.moments = [] → s.busy = none → s.csCount = 0 →
    s.pending.getLsbD k.val = true → (∀ j : Fin 4, k < j → s.pending.getLsbD j.val = false) →
      ∃ p : BitVec 4, (∀ j : Fin 4, p.getLsbD j.val = (s.pending.getLsbD j.val && decide (j ≠ k))) ∧
        step s = exec (eventOf k) { s with pending := p }

/-- A refused command word gives its response, `(0x80, 0)` or `(0x81, 0)`, and changes nothing else (60_exceptions.md R262). -/
def Obligations.RefusedWordOnlyResponds : Prop :=
  Status.illegalCommand.code = 0x80 ∧ Status.illegalOperand.code = 0x81 ∧
  ∀ (s : State) (cw : Long) (rest : List Long),
    s.cfg.wf = true → s.env.moments = [] → s.busy = none → (s.csCount ≠ 0 ∨ s.pending = 0) → s.env.port = cw :: rest →
      (decode s.cfg cw = .illegalCommand →
        step s = .next { s with
          trace := s.trace ++ [.response .illegalCommand 0], env := { s.env with port := rest } }) ∧
      (decode s.cfg cw = .illegalOperand →
        step s = .next { s with
          trace := s.trace ++ [.response .illegalOperand 0], env := { s.env with port := rest } })

/-- The reset values (10_state.md R39), under any configuration and environment: `State.reset` is one case of `State.resetIn`. After reset
CORE is idle and the events are unmasked. -/
def Obligations.ResetValues : Prop :=
  ∀ (c : Cfg) (e : Env),
    let s := State.resetIn c e
    s.csCount = 0 ∧ s.est.startupAngleOfs = 0 ∧ s.est.calibOfs = 0 ∧ s.est.startupRevOfs = 0 ∧ s.est.lastAngle = 0 ∧
    s.est.lastTime = e.now ∧ s.fm.stallCount = 0 ∧ s.fm.lastOtTime = e.now ∧ s.fm.motorState = .disabled ∧
    s.fm.rmsCurrent = 0 ∧ s.sch.desiredStep = 0 ∧ s.sch.currentStep = 0 ∧ s.sch.elecAngle = 0 ∧ s.sch.pidInteg = 0 ∧
    s.sch.pidPrevErr = 0 ∧ s.sch.tickEnabled = false ∧ s.sch.fineEnabled = false ∧ s.sch.schedActive = false ∧
    s.sch.fineFreq = 0 ∧ s.sch.schedRate = 0 ∧ s.sch.schedCount = 0 ∧ s.sch.fineDir = .plus ∧ s.sch.schedDir = .plus ∧
    s.fm.stallOut = false ∧ s.fm.ledOut = false ∧ s.pending = 0 ∧
    (∀ ch, s.ma.get ch = ⟨c.maCap.get ch, 0, 0, 0, List.replicate (c.maCap.get ch) 0⟩) ∧
    s.cache = List.replicate c.nslots none ∧ s.txb = ⟨0, 0, List.replicate 15 0, 0⟩ ∧
    s.bus = ⟨false, .pushPull⟩ ∧ s.trace = [] ∧ s.masked = false ∧ s.busy = none

/-- A reset that arrives puts every element to its reset value at once, whatever was in progress; `lastTime` and `lastOtTime` take the
`now` of that moment (70_reset_and_hazards.md R290). That a reset arrives between two steps is the model's (log 12). -/
def Obligations.ResetAtAnyMoment : Prop :=
  ∀ (s : State) (m : Moment) (rest : List Moment), s.cfg.wf = true → s.env.moments = m :: rest → m.reset = true →
    ∃ t, step s = .next t ∧ t = State.resetIn s.cfg t.env ∧ t.env.now = m.now ∧ t.env.moments = rest ∧
      t.est.lastTime = m.now ∧ t.fm.lastOtTime = m.now

/-- The state invariant holds right after reset, under every configuration of this hardware (10_state.md R34, R39). -/
def Obligations.InvAtReset : Prop :=
  (∀ (c : Cfg) (e : Env), c.wf = true → StateInv (State.resetIn c e)) ∧ StateInv State.reset

/-- Every step keeps the state invariant (10_state.md R34, 45_correction_scheduler.md R248): every channel in order with its sum
exact, the integrator inside its bound, an armed schedule with steps to issue, the buffers at their sizes, the
transport idle, a command in flight inside the sections it entered. -/
def Obligations.InvKeptByStep : Prop :=
  ∀ s t : State, StateInv s → step s = .next t → StateInv t

/-- No step but a reset writes the configuration, `elecAngle` or `ledOut` (10_state.md R25, R29; 45_correction_scheduler.md R232); no
step at all writes the configuration (00_scope.md R6). -/
def Obligations.UnwrittenStateFixed : Prop :=
  ∀ s t : State, step s = .next t →
    t.cfg = s.cfg ∧
    ((∀ m rest, s.env.moments = m :: rest → m.reset = false) →
      t.sch.elecAngle = s.sch.elecAngle ∧ t.fm.ledOut = s.fm.ledOut)

/-- A command that ends gives exactly one response, as its last output; one that stands at a blocking read and an event
give none; no output is ever taken back (30_encoding.md R93, 10_state.md R38). -/
def Obligations.OneResponsePerCommand : Prop :=
  ∀ (i : Instr) (s t : State), s.busy = none → exec i s = .next t →
    ∃ l, t.trace = s.trace ++ l ∧
      if isEvent i = true ∨ t.busy ≠ none then l.filter TraceItem.isResponse = []
      else ∃ l' st d, l = l' ++ [.response st d] ∧ l'.filter TraceItem.isResponse = []

/-! ### The critical section -/

/-- The nesting depth is back at the end of every command but `CSENTER` and `CSEXIT` and of every handler; a command that
stands at a blocking read holds the sections it entered (40_critical_section.md R134; the depth of each command is DEDUCED, log 8). -/
def Obligations.DepthBalanced : Prop :=
  ∀ (i : Instr) (s t : State), s.busy = none → exec i s = .next t → i ≠ .csenter → i ≠ .csexit →
    (t.busy = none → t.csCount = s.csCount) ∧
    (∀ p, t.busy = some p → t.csCount.toNat = s.csCount.toNat + p.op.depth)

/-- `CSENTER` and `CSEXIT` move the depth by one and report it; the events are masked exactly while it is not 0; at the ends of
the range neither has a transition (40_critical_section.md R130 to R133, U1, U2; a fault is how the model stops, log 9). -/
def Obligations.SectionCommands : Prop :=
  ∀ s : State,
    (s.csCount ≠ 255 → exec .csenter s = .next { s with
      csCount := s.csCount + 1, trace := s.trace ++ [.response .ok (BitVec.ofNat 64 (s.csCount.toNat + 1))] }) ∧
    (s.csCount = 255 → exec .csenter s = .fault .csOverflow) ∧
    (s.csCount ≠ 0 → exec .csexit s = .next { s with
      csCount := s.csCount - 1, trace := s.trace ++ [.response .ok (BitVec.ofNat 64 (s.csCount.toNat - 1))] }) ∧
    (s.csCount = 0 → exec .csexit s = .fault .csUnderflow) ∧
    (s.masked = true ↔ 0 < s.csCount.toNat)

/-! ### The filters -/

/-- `MACFG`, `MAADD`, `MAVAL` (41_moving_average.md R140 to R142): what each does, and that a sum which does not fit stops (U7;
which results are checked is the model's choice, log 10). -/
def Obligations.FilterCommands : Prop :=
  ∀ (ch : Chan) (cap : Word) (b : U32) (s : State), CanEnter 1 s →
    (1 ≤ cap.toNat → cap.toNat ≤ s.cfg.maMaxCap → exec (.macfg ch cap) s = .next { s with
      ma := s.ma.set ch ⟨cap.toNat, 0, 0, 0, List.replicate cap.toNat 0⟩, trace := s.trace ++ [.response .ok 0] }) ∧
    (cap.toNat = 0 ∨ s.cfg.maMaxCap < cap.toNat →
      exec (.macfg ch cap) s = .next { s with trace := s.trace ++ [.response .illegalOperand 0] }) ∧
    (SampleFits ch b.toInt s → exec (.maadd ch b) s = .next { s with
      ma := s.ma.set ch ((s.ma.get ch).add b.toInt), trace := s.trace ++ [.response .ok 0] }) ∧
    (¬ SampleFits ch b.toInt s → exec (.maadd ch b) s = .fault .fxOverflow) ∧
    exec (.maval ch) s = .next { s with
      trace := s.trace ++
        [.response .ok (BitVec.ofInt 64 (tdiv (s.ma.get ch).sum (max (s.ma.get ch).fill 1 : Nat)))] }

/-- The assignments of `MaAdd` (41_moving_average.md R141): the evicted sample leaves the sum where the buffer is full, else the fill
grows. -/
def Obligations.FilterAddRule : Prop :=
  ∀ (m : Machine.Filter) (x : Fx),
    (m.fill = m.cap → m.add x =
      ⟨m.cap, (m.head + 1) % m.cap, m.fill, m.sum - m.buf.getD m.head 0 + x, m.buf.set m.head x⟩) ∧
    (m.fill ≠ m.cap → m.add x =
      ⟨m.cap, (m.head + 1) % m.cap, m.fill + 1, m.sum + x, m.buf.set m.head x⟩)

/-- Samples into a freshly configured channel: the mean is the truncated mean of all of them while they fit, of the most
recent `cap` of them after that (41_moving_average.md R143). -/
def Obligations.MovingAverageMean : Prop :=
  ∀ (cap : Nat) (xs : List Fx), 1 ≤ cap →
    let m := xs.foldl Machine.Filter.add (Machine.Filter.empty cap)
    (1 ≤ xs.length → xs.length ≤ cap → m.value = tdiv xs.sum xs.length) ∧
    (cap < xs.length → m.value = tdiv (xs.drop (xs.length - cap)).sum cap)

/-- No instruction writes a channel it does not feed or configure (41_moving_average.md R144). -/
def Obligations.FilterChannelsIndependent : Prop :=
  ∀ (i : Instr) (s t : State) (ch : Chan), exec i s = .next t → ch ∉ channelsOf s.cfg i → t.ma.get ch = s.ma.get ch

/-! ### The transport and the cache -/

/-- The read transaction (20_memory.md R67): its operations in their order, the words received, and the buffer after it element by
element, for every answer of the sensor. -/
def Obligations.ReadTransaction : Prop :=
  ∀ (reg : RegNum) (n : BitVec 4) (safe : Bool) (s : State),
    memRead reg n safe s =
      ((readWords n.toNat s.env, wordAt s.env (n.toNat + 1)), afterMemRead reg n safe s) ∧
    (memRead reg n safe s).2.txb.cmd.toNat = 2 ^ 15 + safe.toNat * 2 ^ 14 + reg.toNat * 2 ^ 4 + n.toNat ∧
    (memRead reg n safe s).2.txb.count = n ∧
    (memRead reg n safe s).2.txb.safety = wordAt s.env (n.toNat + 1) ∧
    ∀ i : Fin 15, s.txb.data.length = 15 → (memRead reg n safe s).2.txb.data[i.val]? =
      if i.val < n.toNat then some (wordAt s.env (i.val + 1)) else s.txb.data[i.val]?

/-- The write transaction and the safety reset (20_memory.md R68, R69): their operations in their order; neither touches the buffer or
the cache. -/
def Obligations.WriteAndResetTransactions : Prop :=
  ∀ (reg : RegNum) (v : Word) (s : State),
    memWrite reg v s = afterMemWrite reg v s ∧ safetyReset s = afterSafetyReset s ∧
    (afterMemWrite reg v s).txb = s.txb ∧ (afterMemWrite reg v s).cache = s.cache ∧
    (afterSafetyReset s).txb = s.txb ∧ (afterSafetyReset s).cache = s.cache ∧
    Config.default.safetyResetWord = addrWord true false 0 1

/-- The cache update (42_register_protocol.md R155): a slot holds the last word of the burst whose register has that slot, and keeps
its value where there is none; nothing else moves. -/
def Obligations.CacheUpdate : Prop :=
  ∀ (reg : RegNum) (d : List Word) (s : State) (slot : Byte), slot.toNat < s.cache.length →
    (∀ j, j < d.length → s.cfg.slotOf (reg + BitVec.ofNat 10 j) = some slot →
      (∀ k, j < k → k < d.length → s.cfg.slotOf (reg + BitVec.ofNat 10 k) ≠ some slot) →
        (updateCache reg d s).slot slot = d[j]?) ∧
    ((∀ j, j < d.length → s.cfg.slotOf (reg + BitVec.ofNat 10 j) ≠ some slot) →
      (updateCache reg d s).slot slot = s.slot slot) ∧
    updateCache reg d s = { s with cache := (updateCache reg d s).cache } ∧
    (updateCache reg d s).cache.length = s.cache.length

/-- `RDREG` and `RDBURST` (42_register_protocol.md R150, R156, R161): one attempt, its kind as the status, the words read as the data
in every case; without `safe` the kind is `Ok`. A burst of 0 is refused. -/
def Obligations.ReadCommands : Prop :=
  ∀ (safe : Bool) (reg : RegNum) (n : BitVec 4) (s : State), CanEnter 2 s →
    exec (.rdreg safe reg) s = .next ((afterAttempt reg 1 safe s).emit
      (.response (readKind reg 1 safe s) ((wordAt s.env 1).setWidth 64))) ∧
    (n ≠ 0 → exec (.rdburst safe reg n) s = .next ((afterAttempt reg n safe s).emit
      (.response (readKind reg n safe s)
        ((if 3 < n.toNat then wordAt s.env 4 else 0) ++ (if 2 < n.toNat then wordAt s.env 3 else 0) ++
          (if 1 < n.toNat then wordAt s.env 2 else 0) ++ wordAt s.env 1)))) ∧
    (n = 0 → exec (.rdburst safe reg n) s = .next { s with trace := s.trace ++ [.response .illegalOperand 0] })

/-- `WRREG` and `SRESET` (42_register_protocol.md R162, R164): a write, a safety reset, always `Ok`. -/
def Obligations.WriteAndResetCommands : Prop :=
  ∀ (reg : RegNum) (v : Word) (s : State), CanEnter 1 s →
    exec (.wrreg reg v) s = .next ((afterMemWrite reg v s).emit (.response .ok 0)) ∧
    exec .sreset s = .next ((afterSafetyReset s).emit (.response .ok 0))

/-- `GETBF` (42_register_protocol.md R157): a readable field is read with the safety check and cut from the word read, whatever the
kind; an unreadable one gives `FieldNotReadable` with no transaction; an index past the table is refused. -/
def Obligations.GetFieldCommand : Prop :=
  ∀ (idx : Byte) (s : State), CanEnter 2 s → s.cfg.wf = true → s.cache.length = s.cfg.nslots →
    (∀ f, s.cfg.fieldTable[idx.toNat]? = some f →
      ((f.mode = .read ∨ f.mode = .readWrite ∨ f.mode = .readUpdate) →
        exec (.getbf idx) s = .next ((afterAttempt f.reg 1 true s).emit
          (.response (readKind f.reg 1 true s)
            (((wordAt s.env 1 &&& f.mask) >>> f.offset.toNat).setWidth 64)))) ∧
      ((f.mode = .write ∨ f.mode = .writeUpdate ∨ f.mode = .reserved) →
        exec (.getbf idx) s = .next { s with trace := s.trace ++ [.response .fieldNotReadable 0] })) ∧
    (s.cfg.fieldTable.length ≤ idx.toNat →
      exec (.getbf idx) s = .next { s with trace := s.trace ++ [.response .illegalOperand 0] })

/-- `SETBF` (42_register_protocol.md R159, 93_implementation_defined.md U3): the merged word goes into the slot and to the sensor; a
forbidden write changes nothing; a slot never read has no transition (log 9). -/
def Obligations.SetFieldCommand : Prop :=
  ∀ (idx : Byte) (x : Word) (s : State), CanEnter 1 s →
    (∀ f, s.cfg.fieldTable[idx.toNat]? = some f →
      ((f.mode = .write ∨ f.mode = .readWrite ∨ f.mode = .writeUpdate) →
        (∀ w, s.slot f.slot = some w →
          exec (.setbf idx x) s = .next ((afterMemWrite f.reg (mergeField f w x)
              { s with cache := s.cache.set f.slot.toNat (some (mergeField f w x)) }).emit
            (.response .ok ((mergeField f w x).setWidth 64)))) ∧
        (s.slot f.slot = none → exec (.setbf idx x) s = .fault .cacheSlotUnread)) ∧
      ((f.mode = .read ∨ f.mode = .readUpdate ∨ f.mode = .reserved) →
        exec (.setbf idx x) s = .next { s with trace := s.trace ++ [.response .fieldNotWritable 0] })) ∧
    (s.cfg.fieldTable.length ≤ idx.toNat →
      exec (.setbf idx x) s = .next { s with trace := s.trace ++ [.response .illegalOperand 0] })

/-- `VALSAFE` (42_register_protocol.md R163): the kind of the buffer with its reset; the local checksum where it was computed. -/
def Obligations.ValidateCommand : Prop :=
  ∀ s : State, CanEnter 1 s →
    exec .valsafe s = .next ((validateAndReset s).2.emit (.response (validate s.cfg s.txb)
      (if validate s.cfg s.txb = .ok ∨ validate s.cfg s.txb = .crcMismatch
        then (checksum s.cfg s.txb.crcBytes).setWidth 64 else 0)))

/-- `TXBLD` and `TXBRD` over the buffer's index map (42_register_protocol.md R165 to R167). -/
def Obligations.BufferCommands : Prop :=
  ∀ (v : Word) (j : Fin 15) (s : State), CanEnter 1 s →
    TxbElem.ofIndex 0 = some .cmd ∧ TxbElem.ofIndex (BitVec.ofNat 8 (j.val + 1)) = some (.data j) ∧
    TxbElem.ofIndex 16 = some .safety ∧ TxbElem.ofIndex 17 = some .count ∧
    exec (.txbld .cmd v) s = .next { s with
      txb := { s.txb with cmd := v }, trace := s.trace ++ [.response .ok 0] } ∧
    exec (.txbld (.data j) v) s = .next { s with
      txb := { s.txb with data := s.txb.data.set j.val v }, trace := s.trace ++ [.response .ok 0] } ∧
    exec (.txbld .safety v) s = .next { s with
      txb := { s.txb with safety := v }, trace := s.trace ++ [.response .ok 0] } ∧
    (v.toNat ≤ 15 → exec (.txbld .count v) s = .next { s with
      txb := { s.txb with count := BitVec.ofNat 4 v.toNat }, trace := s.trace ++ [.response .ok 0] }) ∧
    (15 < v.toNat →
      exec (.txbld .count v) s = .next { s with trace := s.trace ++ [.response .illegalOperand 0] }) ∧
    exec (.txbrd .cmd) s = .next { s with trace := s.trace ++ [.response .ok (s.txb.cmd.setWidth 64)] } ∧
    (∀ w, s.txb.data[j.val]? = some w →
      exec (.txbrd (.data j)) s = .next { s with trace := s.trace ++ [.response .ok (w.setWidth 64)] }) ∧
    exec (.txbrd .safety) s = .next { s with trace := s.trace ++ [.response .ok (s.txb.safety.setWidth 64)] } ∧
    exec (.txbrd .count) s = .next { s with trace := s.trace ++ [.response .ok (s.txb.count.setWidth 64)] }

/-- The field arithmetic (42_register_protocol.md R158, R160, R168): an extracted value is unsigned and at most `16 - offset` bits
wide; a merge keeps the bits outside the mask and puts the new value, moved to the offset, inside it; a value that fits the
field comes back from the merged word. -/
def Obligations.FieldArithmetic : Prop :=
  ∀ (f : Descriptor) (w x : Word),
    extractField f w = (w &&& f.mask) >>> f.offset.toNat ∧ (extractField f w).toNat < 2 ^ (16 - f.offset.toNat) ∧
    (∀ i : Fin 16, (mergeField f w x).getLsbD i.val =
      if f.mask.getLsbD i.val then decide (f.offset.toNat ≤ i.val) && x.getLsbD (i.val - f.offset.toNat)
      else w.getLsbD i.val) ∧
    (x.toNat * 2 ^ f.offset.toNat < 2 ^ 16 → (x <<< f.offset.toNat) &&& ~~~ f.mask = 0 →
      extractField f (mergeField f w x) = x)

/-- `Validate` (42_register_protocol.md R153): the first raised flag in the order SYS, IFA, INV, then the checksum. -/
def Obligations.ValidateOrder : Prop :=
  ∀ (c : Cfg) (t : Txb),
    let up := fun b : Nat => t.safety.getLsbD b = c.safetyErrLevel
    (up c.safetyBitSys → validate c t = .systemError) ∧
    (¬ up c.safetyBitSys → up c.safetyBitIf → validate c t = .interfaceAccessError) ∧
    (¬ up c.safetyBitSys → ¬ up c.safetyBitIf → up c.safetyBitInv → validate c t = .invalidAngleError) ∧
    (¬ up c.safetyBitSys → ¬ up c.safetyBitIf → ¬ up c.safetyBitInv →
      (checksum c t.crcBytes ≠ t.safety.extractLsb' 0 8 → validate c t = .crcMismatch) ∧
      (checksum c t.crcBytes = t.safety.extractLsb' 0 8 → validate c t = .ok))

/-- `ValidateAndReset` (42_register_protocol.md R154): which kinds cause a safety reset. -/
def Obligations.ResetAfterError : Prop :=
  ∀ s : State,
    let k := validate s.cfg s.txb
    (k = .systemError ∨ k = .invalidAngleError ∨ (k = .interfaceAccessError ∧ s.cfg.safetyResetOnIface = true) →
      validateAndReset s = (k, safetyReset s)) ∧
    (¬ (k = .systemError ∨ k = .invalidAngleError ∨ (k = .interfaceAccessError ∧ s.cfg.safetyResetOnIface = true)) →
      validateAndReset s = (k, s))

/-- The checksum. The bytes covered: the command echo, then the first `count` data words, high byte first (42_register_protocol.md
R152). Its value: the shift register of R151 from the seed, complemented, with the rule's three check values. A single flipped
bit changes it, for any polynomial with bit 0 set and any seed (R169). -/
def Obligations.CrcDetectsSingleBit : Prop :=
  (∀ t : Txb, t.crcBytes = [t.cmd.extractLsb' 8 8, t.cmd.extractLsb' 0 8] ++
    (t.data.take t.count.toNat).flatMap (fun w => [w.extractLsb' 8 8, w.extractLsb' 0 8])) ∧
  (∀ (c : Cfg) (bytes : List Byte), checksum c bytes = ~~~ (bytes.foldl (fun r b =>
    (List.range 8).foldl (fun r _ => if r.msb then (r <<< 1) ^^^ c.crcPoly else r <<< 1) (r ^^^ b)) c.crcSeed)) ∧
  checksum Config.default [0x31, 0x32, 0x33, 0x34, 0x35, 0x36, 0x37, 0x38, 0x39] = 0x4B ∧
  checksum Config.default [] = 0x00 ∧ checksum Config.default [0x00] = 0x3B ∧
  ∀ (c : Cfg) (before after : List Byte) (b : Byte) (k : Fin 8), c.crcPoly.getLsbD 0 = true →
    checksum c (before ++ [b] ++ after) ≠ checksum c (before ++ [b ^^^ (1#8 <<< k.val)] ++ after)

/-! ### The estimator -/

/-- `ANGLE` (43_motion_estimator.md R181, R182): the sample, 15 bits scaled and the offsets subtracted, goes into channel 0 and is
the response, or the mean that includes it; where the sample or the sum does not fit there is no transition (U7, log 10). -/
def Obligations.AngleCommand : Prop :=
  ∀ (useAverage : Bool) (s : State), CanEnter 2 s → s.busy = none → ReadOk s.cfg.regAngle 1 s →
    let a := angleDegrees s (wordAt s.env 1)
    (SampleFits .angle a s → exec (.angle useAverage) s = .next ((fed .angle a (afterRead s.cfg.regAngle 1 true s)).emit
      (.response .ok (BitVec.ofInt 64 (if useAverage then meanWith .angle a s else a))))) ∧
    (¬ SampleFits .angle a s → exec (.angle useAverage) s = .fault .fxOverflow)

/-- `AREV` (43_motion_estimator.md R183, R184): the sign-extended 9-bit count less the offset; no filter is fed. -/
def Obligations.RevolutionCommand : Prop :=
  ∀ s : State, CanEnter 2 s → s.busy = none → ReadOk s.cfg.regRev 1 s →
    exec .arev s = .next ((afterRead s.cfg.regRev 1 true s).emit
      (.response .ok (BitVec.ofInt 64 (revolutions s (wordAt s.env 1)))))

/-- `AANGLE` (43_motion_estimator.md R185, R186): two reads, revolution first; `r x 360 + a` into channel 1; the response is its mean;
where a result does not fit there is no transition (U7; which results are checked is the model's choice, log 10). -/
def Obligations.AbsoluteAngleCommand : Prop :=
  ∀ s : State, CanEnter 3 s → s.busy = none → BothReadsOk s →
    (AbsoluteFits s → exec .aangle s = .next ((afterAbsolute s).emit
      (.response .ok (BitVec.ofInt 64 (meanWith .absAngle (absoluteDegrees s) s))))) ∧
    (¬ AbsoluteFits s → exec .aangle s = .fault .fxOverflow)

/-- `SPEED` by finite difference (43_motion_estimator.md R187); with no time passed there is no transition (U4, log 9), nor where a
result or the numerator `(A - lastAngle) x 10^6` does not fit (U7; which results are checked is the model's choice, log 10). -/
def Obligations.SpeedByDifference : Prop :=
  ∀ s : State, CanEnter 4 s → s.busy = none → s.cfg.speedStrategy = .finiteDifference → BothReadsOk s →
    let a := meanWith .absAngle (absoluteDegrees s) s
    let dt := (s.env.now - s.est.lastTime).toNat
    let num := (a - s.est.lastAngle) * 1000000
    let v := tdiv num dt
    (dt ≠ 0 → AbsoluteFits s → DerivativeFits .speed num dt s →
      exec .speed s = .next (((fed .speed v (afterAbsolute s)).withEst
          { s.est with lastAngle := a, lastTime := s.env.now }).emit
        (.response .ok (BitVec.ofInt 64 (meanWith .speed v s))))) ∧
    (dt ≠ 0 → ¬ (AbsoluteFits s ∧ DerivativeFits .speed num dt s) → exec .speed s = .fault .fxOverflow) ∧
    (dt = 0 → exec .speed s = .fault .zeroInterval)

/-- `SPEED` from the speed register (43_motion_estimator.md R188): one burst of 4, the 15-bit count times the scale of the mode;
channels 0 and 1 and the last sample stay. The scale is the configuration's, or free where it is open (log 2); a result that does not fit has no
transition (U7, log 10). -/
def Obligations.SpeedByRegister : Prop :=
  ∀ s : State, CanEnter 2 s → s.busy = none → s.cfg.speedStrategy = .speedRegister → s.cfg.speedWordIdx ≤ 3 →
    s.cfg.modeWordIdx ≤ 3 → ReadOk s.cfg.regSpeed 4 s →
    let raw := ((wordAt s.env (s.cfg.speedWordIdx + 1)).toNat : Int).bmod 32768
    let mode := (wordAt s.env (s.cfg.modeWordIdx + 1)).extractLsb' s.cfg.modeShift 2
    let v := raw * speedScaleOf s.cfg mode
    (SampleFits .speed v s → exec .speed s = .next ((fed .speed v (afterRead s.cfg.regSpeed 4 true s)).emit
      (.response .ok (BitVec.ofInt 64 (meanWith .speed v s))))) ∧
    (¬ SampleFits .speed v s → exec .speed s = .fault .fxOverflow)

/-- `ACCEL` (43_motion_estimator.md R189): the angle difference over the elapsed time squared, into channel 3; it shares the last sample
with `SPEED`; with no time passed there is no transition (U4, log 9), nor where a result or the numerator
`(A - lastAngle) x 10^12` does not fit (U7; which results are checked is the model's choice, log 10). -/
def Obligations.AccelerationCommand : Prop :=
  ∀ s : State, CanEnter 4 s → s.busy = none → BothReadsOk s →
    let a := meanWith .absAngle (absoluteDegrees s) s
    let dt := (s.env.now - s.est.lastTime).toNat
    let num := (a - s.est.lastAngle) * 1000000000000
    let den := (dt : Int) * dt
    let g := tdiv num den
    (dt ≠ 0 → AbsoluteFits s → DerivativeFits .accel num den s →
      exec .accel s = .next (((fed .accel g (afterAbsolute s)).withEst
          { s.est with lastAngle := a, lastTime := s.env.now }).emit
        (.response .ok (BitVec.ofInt 64 (meanWith .accel g s))))) ∧
    (dt ≠ 0 → ¬ (AbsoluteFits s ∧ DerivativeFits .accel num den s) → exec .accel s = .fault .fxOverflow) ∧
    (dt = 0 → exec .accel s = .fault .zeroInterval)

/-- `TEMP` (43_motion_estimator.md R191, R192; U7: log 10): `(raw + offset) / divisor` into channel 4; the mean drives `OtEval`, is the
response. -/
def Obligations.TemperatureCommand : Prop :=
  ∀ s : State, CanEnter 2 s → s.busy = none → s.cfg.tempDiv ≠ 0 → ReadOk s.cfg.regTemp 1 s →
    let raw := (((wordAt s.env 1).toNat / 2 ^ s.cfg.tempShift : Nat) : Int).bmod 1024
    let x := tdiv ((raw * 65536 + s.cfg.tempOffset) * 65536) s.cfg.tempDiv
    let mean := meanWith .temp x s
    (SampleFits .temp x s →
      exec .temp s = .next ((otEval mean s.env.now (fed .temp x (afterRead s.cfg.regTemp 1 true s))).emit
        (.response .ok (BitVec.ofInt 64 mean)))) ∧
    (¬ SampleFits .temp x s → exec .temp s = .fault .fxOverflow)

/-- `ZERO` and `SETOFS` (43_motion_estimator.md R193, R194): the readings of the moment are added to the offsets; the calibration offset
is set. Where the sample, the sum or the new offset does not fit, `ZERO` has no transition (U7; which results are checked is the
model's choice, log 10). -/
def Obligations.OffsetCommands : Prop :=
  ∀ (offset : U32) (s : State), CanEnter 3 s → s.busy = none →
    (let a := angleDegrees s (wordAt s.env 4)
     let r := revolutions s (wordAt s.env 1)
     let fits := SampleFits .angle a s ∧ fxFits s.cfg (s.est.startupAngleOfs + a) = true
     BothReadsOk s →
      (fits → exec .zero s = .next (((fed .angle a (afterBothReads s)).withEst { s.est with
          startupRevOfs := BitVec.ofInt 32 (s.est.startupRevOfs.toInt + r),
          startupAngleOfs := s.est.startupAngleOfs + a }).emit (.response .ok 0))) ∧
      (¬ fits → exec .zero s = .fault .fxOverflow)) ∧
    exec (.setofs offset) s = .next ((s.withEst { s.est with calibOfs := offset.toInt }).emit (.response .ok 0))

/-- A failed attempt that is not the last allowed one (43_motion_estimator.md R180): the attempt's transaction, buffer and cache stand,
the command waits with its sections held for the next attempt, and no estimator, filter, fault-monitor or scheduler
register has moved. The second clause is the failure of the second read of a command that makes two. That a failed attempt
ends the model's step is the model's choice (log 7). -/
def Obligations.FailedAttemptWaits : Prop :=
  ∀ (i : Instr) (op : EstOp) (s : State), estOpOf s.cfg i = some op → CanEnter (op.depth + 1) s → s.cfg.tempDiv ≠ 0 →
    s.cfg.maxRetries ≠ some 0 →
    (¬ ReadOk (firstTarget s.cfg op).1 (firstTarget s.cfg op).2 s →
      exec i s = .next { afterAttempt (firstTarget s.cfg op).1 (firstTarget s.cfg op).2 true s with
        csCount := s.csCount + BitVec.ofNat 8 op.depth, busy := some ⟨op, s.env.now, none, 1⟩ }) ∧
    (op.readsBoth = true → ReadOk s.cfg.regRev 1 s → ¬ ReadOk s.cfg.regAngle 1 (afterRead s.cfg.regRev 1 true s) →
      exec i s = .next { afterAttempt s.cfg.regAngle 1 true (afterRead s.cfg.regRev 1 true s) with
        csCount := s.csCount + BitVec.ofNat 8 op.depth, busy := some ⟨op, s.env.now, some (wordAt s.env 1), 1⟩ })

/-- The retry bound (43_motion_estimator.md R180, 70_reset_and_hazards.md R301): the failed attempt that spends it ends the command with
`RetryExhausted` and data 0, everything but the transport side as it was; without a bound, or below it, a failed
attempt leaves the command waiting with one more failure counted (one attempt a step: log 7). The first clause is the bound 0,
one attempt: the command ends in the step it started in, at its first or at its second read. -/
def Obligations.RetryBoundSpent : Prop :=
  (∀ (i : Instr) (op : EstOp) (s : State), estOpOf s.cfg i = some op → CanEnter (op.depth + 1) s → s.cfg.tempDiv ≠ 0 →
    s.cfg.maxRetries = some 0 →
    (¬ ReadOk (firstTarget s.cfg op).1 (firstTarget s.cfg op).2 s →
      exec i s = .next ({ afterAttempt (firstTarget s.cfg op).1 (firstTarget s.cfg op).2 true s with busy := none }.emit
        (.response .retryExhausted 0))) ∧
    (op.readsBoth = true → ReadOk s.cfg.regRev 1 s → ¬ ReadOk s.cfg.regAngle 1 (afterRead s.cfg.regRev 1 true s) →
      exec i s = .next ({ afterAttempt s.cfg.regAngle 1 true (afterRead s.cfg.regRev 1 true s) with busy := none }.emit
        (.response .retryExhausted 0)))) ∧
  ∀ (s : State) (p : InFlight), s.cfg.wf = true → s.env.moments = [] → s.busy = some p →
    p.op.depth ≤ s.csCount.toNat → CanEnter 1 s →
    ¬ ReadOk (currentTarget s.cfg p).1 (currentTarget s.cfg p).2 s →
    let t := afterAttempt (currentTarget s.cfg p).1 (currentTarget s.cfg p).2 true s
    (∀ k, s.cfg.maxRetries = some k → k ≤ p.fails →
      step s = .next ({ t with csCount := s.csCount - BitVec.ofNat 8 p.op.depth, busy := none }.emit
        (.response .retryExhausted 0))) ∧
    ((s.cfg.maxRetries = none ∨ ∃ k, s.cfg.maxRetries = some k ∧ p.fails < k) →
      step s = .next { t with busy := some { p with fails := p.fails + 1 } })

/-- An attempt of the first read that succeeds after any number of failed ones goes on exactly as the command would have gone on
from the start, with the `now` of its start (43_motion_estimator.md R180, 00_scope.md R13; one attempt a step: log 7). An
attempt of the second read that succeeds ends the command with the revolution word it has kept and the angle word just read:
`AANGLE`, `SPEED` by difference and `ACCEL`, `ZERO` (R186, R187, R189, R193; the stops are U4 and U7, logs 9 and 10). -/
def Obligations.RetriedCommandGoesOn : Prop :=
  (∀ (i : Instr) (op : EstOp) (n : Nat) (s : State), s.cfg.wf = true → s.env.moments = [] →
    estOpOf s.cfg i = some op → CanEnter (op.depth + 1) s →
    ReadOk (firstTarget s.cfg op).1 (firstTarget s.cfg op).2 s →
      step { s with csCount := s.csCount + BitVec.ofNat 8 op.depth, busy := some ⟨op, s.env.now, none, n⟩ } = exec i s) ∧
  ∀ (op : EstOp) (now : U32) (rev : Word) (n : Nat) (s : State), s.cfg.wf = true → s.env.moments = [] →
    s.busy = some ⟨op, now, some rev, n⟩ → op.depth ≤ s.csCount.toNat → CanEnter 1 s → ReadOk s.cfg.regAngle 1 s →
    let w := wordAt s.env 1
    let u := { afterRead s.cfg.regAngle 1 true s with csCount := s.csCount - BitVec.ofNat 8 op.depth, busy := none }
    let a := meanWith .absAngle (absoluteOf s rev w) s
    let dt := (now - s.est.lastTime).toNat
    let x := angleDegrees s w
    let zeroFits := SampleFits .angle x s ∧ fxFits s.cfg (s.est.startupAngleOfs + x) = true
    (op = .aangle → AbsoluteWordsFit s rev w →
      step s = .next ((fedAbsolute s rev w u).emit (.response .ok (BitVec.ofInt 64 a)))) ∧
    (op = .aangle → ¬ AbsoluteWordsFit s rev w → step s = .fault .fxOverflow) ∧
    (∀ (ch : Chan) (num den : Int),
      (op = .speedDiff ∧ ch = .speed ∧ num = (a - s.est.lastAngle) * 1000000 ∧ den = dt) ∨
        (op = .accel ∧ ch = .accel ∧ num = (a - s.est.lastAngle) * 1000000000000 ∧ den = (dt : Int) * dt) →
      (dt ≠ 0 → AbsoluteWordsFit s rev w → DerivativeFits ch num den s →
        step s = .next (((fed ch (tdiv num den) (fedAbsolute s rev w u)).withEst
            { s.est with lastAngle := a, lastTime := now }).emit
          (.response .ok (BitVec.ofInt 64 (meanWith ch (tdiv num den) s))))) ∧
      (dt ≠ 0 → ¬ (AbsoluteWordsFit s rev w ∧ DerivativeFits ch num den s) → step s = .fault .fxOverflow) ∧
      (dt = 0 → step s = .fault .zeroInterval)) ∧
    (op = .zero → zeroFits → step s = .next (((fed .angle x u).withEst { s.est with
        startupRevOfs := BitVec.ofInt 32 (s.est.startupRevOfs.toInt + revolutions s rev),
        startupAngleOfs := s.est.startupAngleOfs + x }).emit (.response .ok 0))) ∧
    (op = .zero → ¬ zeroFits → step s = .fault .fxOverflow)

/-- While a command stands at its blocking read, a step only goes on with it: no event is delivered, no word is accepted, and the
depth never falls below what it holds unless it ends (20_memory.md R75, 43_motion_estimator.md R180; one attempt a step:
log 7). -/
def Obligations.BusyBlocksOtherWork : Prop :=
  ∀ (s t : State) (p : InFlight), s.env.moments = [] → s.busy = some p → step s = .next t →
    t.pending = s.pending ∧ t.env.port = s.env.port ∧ t.sch = s.sch ∧
    (t.busy ≠ none → (∃ q, t.busy = some q ∧ q.op = p.op ∧ q.now = p.now) ∧ t.csCount = s.csCount ∧ t.est = s.est ∧
      t.ma = s.ma ∧ t.fm = s.fm)

/-- Only the scheduler's own commands and events write the two positions. No command of the estimator writes a scheduler register, only `TEMP` writes a fault-monitor one; no event and no command of
the scheduler or the fault monitor touches the estimator, the filters, the cache or the buffer
(45_correction_scheduler.md R230, 43_motion_estimator.md R195, 10_state.md R23 to R28). -/
def Obligations.ComponentsKeepApart : Prop :=
  ∀ (i : Instr) (s t : State), exec i s = .next t →
    (t.sch.desiredStep ≠ s.sch.desiredStep → (∃ p, i = .setdes p) ∨ i = .evStepedge ∨ i = .evSched) ∧
    (t.sch.currentStep ≠ s.sch.currentStep → (∃ p, i = .setpos p) ∨ i = .evTick ∨ i = .evFine ∨ i = .evSched) ∧
    (∀ op, estOpOf s.cfg i = some op → t.sch = s.sch ∧ (op ≠ .temp → t.fm = s.fm)) ∧
    ((isEvent i = true ∨ (∃ d r n, i = .sched d r n) ∨ (∃ p, i = .setdes p) ∨ (∃ p, i = .setpos p) ∨ i = .geterr ∨
        i = .getpos ∨ (∃ b, i = .cten b) ∨ (∃ st b, i = .setstate st b) ∨ i = .getstate ∨ (∃ m, i = .setcur m) ∨
        i = .getcur) →
      t.est = s.est ∧ t.ma = s.ma ∧ t.cache = s.cache ∧ t.txb = s.txb ∧ t.bus = s.bus ∧ t.env = s.env)

/-! ### The fault monitor -/

/-- `SetMotorState` (44_fault_monitor.md R210). -/
def Obligations.SetMotorStateRule : Prop :=
  ∀ (st : MotorState) (clr : Bool) (s : State),
    (s.fm.motorState ≠ st ∨ clr = true → setMotorState st clr s =
      { s with fm := { s.fm with motorState := st }, trace := s.trace ++ [.motorState st clr] }) ∧
    (s.fm.motorState = st → clr = false → setMotorState st clr s = s)

/-- `OtEval` (44_fault_monitor.md R211): hysteresis, shutdown, and the current back-off. -/
def Obligations.OtEvalRule : Prop :=
  ∀ (t : Fx) (now : U32) (s : State),
    (s.fm.motorState = .overtemperature → t < s.cfg.otClear →
      otEval t now s = setMotorState .disabled true s) ∧
    (s.fm.motorState = .overtemperature → s.cfg.otClear ≤ t → otEval t now s = s) ∧
    (s.fm.motorState ≠ .overtemperature → s.cfg.otShutdown ≤ t →
      otEval t now s = setMotorState .overtemperature false s) ∧
    (s.fm.motorState ≠ .overtemperature → t < s.cfg.otShutdown → s.cfg.otWarn ≤ t →
      s.cfg.otInterval.toNat ≤ (now - s.fm.lastOtTime).toNat →
      otEval t now s = { s with
        fm := { s.fm with
          rmsCurrent := BitVec.ofNat 16 (s.fm.rmsCurrent.toNat - s.cfg.otCurrentStep.toNat), lastOtTime := now },
        trace := s.trace ++
          [.rmsCurrent (BitVec.ofNat 16 (s.fm.rmsCurrent.toNat - s.cfg.otCurrentStep.toNat))] }) ∧
    (s.fm.motorState ≠ .overtemperature → t < s.cfg.otShutdown →
      (t < s.cfg.otWarn ∨ (now - s.fm.lastOtTime).toNat < s.cfg.otInterval.toNat) → otEval t now s = s)

/-- `StallEval` with its limit (44_fault_monitor.md R215, R216): the saturating count, the output set by the count after its increment or
by this tick's error, and never cleared. -/
def Obligations.StallEvalRule : Prop :=
  ∀ (e : Int) (s : State),
    let n := min (s.fm.stallCount.toNat + 1) (2 ^ 32 - 1)
    let fires := (n : Int) * 65536 > s.cfg.faultTimeS * s.cfg.correctionFreqHz ∨ e.natAbs > s.cfg.faultStepThreshold
    (stallEval e s).fm.stallCount.toNat = n ∧
    ((stallEval e s).fm.stallOut = true ↔ s.fm.stallOut = true ∨ fires) ∧
    stallEval e s = { s with fm := { s.fm with
      stallCount := (stallEval e s).fm.stallCount, stallOut := (stallEval e s).fm.stallOut } }

/-- The overtemperature latch: the only instructions after which the motor has left `Overtemperature` are `TEMP` (then to `Disabled`)
and `SETSTATE` with `clearErrors` (44_fault_monitor.md R212, R218); the forced states are entered by `SETSTATE` alone
(10_state.md R35). -/
def Obligations.OvertemperatureLatch : Prop :=
  ∀ (i : Instr) (s t : State), exec i s = .next t →
    (s.fm.motorState = .overtemperature → t.fm.motorState ≠ .overtemperature →
      (i = .temp ∧ t.fm.motorState = .disabled) ∨ ∃ st, i = .setstate st true ∧ t.fm.motorState = st) ∧
    (t.fm.motorState ≠ s.fm.motorState → (t.fm.motorState = .forcedEnabled ∨ t.fm.motorState = .forcedDisabled) →
      ∃ st clr, i = .setstate st clr ∧ t.fm.motorState = st)

/-- `SETSTATE`, `GETSTATE`, `SETCUR`, `GETCUR` (44_fault_monitor.md R218 to R221). -/
def Obligations.MonitorCommands : Prop :=
  ∀ (st : MotorState) (clr : Bool) (mA : Word) (s : State), CanEnter 1 s →
    (s.fm.motorState = .overtemperature → clr = false → exec (.setstate st clr) s = .next { s with
      trace := s.trace ++ [.response .ok 4] }) ∧
    (clr = true → exec (.setstate st clr) s = .next { s with
      fm := { s.fm with motorState := st, stallCount := 0, stallOut := false },
      trace := s.trace ++ [.motorState st true, .response .ok (st.code.setWidth 64)] }) ∧
    (s.fm.motorState ≠ .overtemperature → clr = false → exec (.setstate st clr) s = .next { s with
      fm := { s.fm with motorState := st },
      trace := s.trace ++ (if s.fm.motorState = st then [] else [.motorState st false]) ++
        [.response .ok (st.code.setWidth 64)] }) ∧
    exec .getstate s = .next { s with
      trace := s.trace ++ [.response .ok (s.fm.stallCount ++ 0#23 ++ BitVec.ofBool s.fm.stallOut ++ 0#5 ++
        s.fm.motorState.code)] } ∧
    exec (.setcur mA) s = .next { s with
      fm := { s.fm with rmsCurrent := mA }, trace := s.trace ++ [.rmsCurrent mA, .response .ok 0] } ∧
    exec .getcur s = .next { s with trace := s.trace ++ [.response .ok (s.fm.rmsCurrent.setWidth 64)] }

/-! ### The correction scheduler -/

/-- `SETDES`, `SETPOS`, `GETERR`, `GETPOS`, `CTEN`, `SCHED` (45_correction_scheduler.md R230, R233 to R235, R237, R238, R246): the
error is the exact difference of the two registers; a schedule is armed with a count above 0, disarmed with 0, and refused
without the scheduler and with a rate of 0. -/
def Obligations.SchedulerCommands : Prop :=
  ∀ (pos : U32) (dir : Dir) (rate : Word) (count : U32) (s : State), CanEnter 1 s →
    exec (.setdes pos) s = .next { s with
      sch := { s.sch with desiredStep := pos }, trace := s.trace ++ [.response .ok 0] } ∧
    exec (.setpos pos) s = .next { s with
      sch := { s.sch with currentStep := pos }, trace := s.trace ++ [.response .ok 0] } ∧
    exec .geterr s = .next { s with
      trace := s.trace ++ [.response .ok (BitVec.ofInt 64 (s.sch.desiredStep.toInt - s.sch.currentStep.toInt))] } ∧
    exec .getpos s = .next { s with
      trace := s.trace ++ [.response .ok (s.sch.desiredStep ++ s.sch.currentStep)] } ∧
    exec (.cten true) s = .next { s with
      sch := { s.sch with tickEnabled := true }, trace := s.trace ++ [.response .ok 0] } ∧
    exec (.cten false) s = .next { s with
      sch := { s.sch with tickEnabled := false, fineEnabled := false }, trace := s.trace ++ [.response .ok 0] } ∧
    (s.cfg.schedPresent = true → rate ≠ 0 → exec (.sched dir rate count) s = .next { s with
      sch := { s.sch with
        schedDir := dir, schedRate := rate, schedCount := count, schedActive := decide (count ≠ 0) },
      trace := s.trace ++ [.response .ok 0] }) ∧
    (s.cfg.schedPresent = false → exec (.sched dir rate count) s = .next { s with
      trace := s.trace ++ [.response .illegalCommand 0] }) ∧
    (s.cfg.schedPresent = true → rate = 0 → exec (.sched dir rate count) s = .next { s with
      trace := s.trace ++ [.response .illegalOperand 0] })

/-- `IssueStep` (45_correction_scheduler.md R231). -/
def Obligations.IssueStepRule : Prop :=
  ∀ (dir : Dir) (updDes : Bool) (s : State),
    let d : Int := match dir with | .plus => 1 | .minus => -1
    issueStep dir updDes s = { s with
      sch := { s.sch with
        currentStep := BitVec.ofInt 32 (s.sch.currentStep.toInt + d),
        desiredStep := if updDes then BitVec.ofInt 32 (s.sch.desiredStep.toInt + d) else s.sch.desiredStep },
      trace := s.trace ++ [.step dir false updDes] }

/-- `EV_TICK`, label by label (45_correction_scheduler.md R236): T0 not enabled, T1 forced off or overtemperature, T2 the enable input
low, T3 the transition to `Enabled`, T4 in tolerance, T5 the policy, T6 the stall evaluation with the same error. Where the PID
policy has no transition (U7: its output does not fit, log 20), neither has the tick. -/
def Obligations.TickLabels : Prop :=
  ∀ s : State, CanEnter 1 s →
    let e := s.sch.desiredStep.toInt - s.sch.currentStep.toInt
    let on := if s.fm.motorState = .forcedEnabled then s else setMotorState .enabled false s
    let blocked := s.fm.motorState = .forcedDisabled ∨ s.fm.motorState = .overtemperature
    let off := s.env.enableIn = false ∧ s.fm.motorState ≠ .forcedEnabled
    (s.sch.tickEnabled = false ∨ blocked → exec .evTick s = .next s) ∧
    (s.sch.tickEnabled = true → ¬ blocked → off →
      exec .evTick s = .next { setMotorState .disabled false s with
        fm := { s.fm with motorState := .disabled, stallOut := false } }) ∧
    (s.sch.tickEnabled = true → ¬ blocked → ¬ off → e.natAbs ≤ 1 →
      exec .evTick s = .next { on with
        fm := { on.fm with stallCount := 0, stallOut := false }, sch := { s.sch with fineEnabled := false } }) ∧
    (s.sch.tickEnabled = true → ¬ blocked → ¬ off → 1 < e.natAbs → s.cfg.correctionPolicy = .direct →
      exec .evTick s = .next (stallEval e (issueStep (if e < 0 then .minus else .plus) false on))) ∧
    (s.sch.tickEnabled = true → ¬ blocked → ¬ off → 1 < e.natAbs → s.cfg.correctionPolicy = .pid →
      (∀ t, pidStep e on = .ok t → exec .evTick s = .next (stallEval e t)) ∧
      (∀ f, pidStep e on = .error f → exec .evTick s = .fault f))

/-- `PidStep` (45_correction_scheduler.md R240, R241) with the default law, its clamped integrator and its exact output, and with any
other law, which is free and whose integrator the model clamps (log 3): whole hertz up to `FREQ_MAX`, the timer disarmed at 0 or
below the gate with frequency and direction kept. An output that does not fit has no transition (00_scope.md R12, U7; that it is
checked here is DEDUCED, log 20), and an integrator outside 32 bits leaves `pidInteg` free (log 28). -/
def Obligations.PidStepRule : Prop :=
  ∀ (e : Int) (s : State),
    let l : Int := s.cfg.pidILimit
    let m := s.sch.pidInteg.toInt
    let prev := s.sch.pidPrevErr.toInt
    let i := match s.cfg.pidLaw with
      | .textbook => min (max (m + e) (-l)) l
      | .other n => min (max (Config.otherPidLaw n e m prev).2.1 (-l)) l
    let out := match s.cfg.pidLaw with
      | .textbook => s.cfg.kp * e + s.cfg.ki * i + s.cfg.kd * (e - prev)
      | .other n => (Config.otherPidLaw n e m prev).1
    let kept := match s.cfg.pidLaw with
      | .textbook => BitVec.ofInt 34 e
      | .other n => (Config.otherPidLaw n e m prev).2.2
    let stored := if -2147483648 ≤ i ∧ i ≤ 2147483647 then BitVec.ofInt 32 i else Config.wideIntegrator i
    let f := min (out.natAbs / 65536) s.cfg.freqMax
    (fxFits s.cfg out = true → pidStep e s = .ok { s with sch :=
      if f = 0 ∨ f < s.cfg.pidMinFreq then
        { s.sch with pidInteg := stored, pidPrevErr := kept, fineEnabled := false }
      else
        { s.sch with
          pidInteg := stored, pidPrevErr := kept, fineEnabled := true,
          fineFreq := BitVec.ofNat 32 f, fineDir := if out < 0 then .minus else .plus } }) ∧
    (fxFits s.cfg out = false → pidStep e s = .error .fxOverflow)

/-- `EV_FINE`, `EV_STEPEDGE` and `EV_SCHED` (45_correction_scheduler.md R242, R243, R247). -/
def Obligations.StepEvents : Prop :=
  ∀ s : State, CanEnter 1 s →
    (s.sch.fineEnabled = true → exec .evFine s = .next (issueStep s.sch.fineDir false s)) ∧
    (s.sch.fineEnabled = false → exec .evFine s = .next s) ∧
    exec .evStepedge s = .next { s with sch := { s.sch with
      desiredStep := BitVec.ofInt 32 (s.sch.desiredStep.toInt + if s.env.dirIn then -1 else 1) } } ∧
    (s.cfg.schedPresent = true → s.sch.schedActive = true →
      ∃ u, u = issueStep s.sch.schedDir s.cfg.schedUpdateDesired s ∧ exec .evSched s = .next { u with sch := { u.sch with
        schedCount := s.sch.schedCount - 1, schedActive := decide (s.sch.schedCount ≠ 1) } }) ∧
    (s.cfg.schedPresent = false ∨ s.sch.schedActive = false → exec .evSched s = .next s)

/-- One `SCHED` and then any number of firings: exactly `count` steps are issued, in its direction, and the schedule is disarmed by
the last of them (45_correction_scheduler.md R247, R248). -/
def Obligations.ScheduleIssuesExactCount : Prop :=
  ∀ (dir : Dir) (rate : Word) (count : U32) (k : Nat) (s : State),
    CanEnter 1 s → s.cfg.schedPresent = true → rate ≠ 0 →
      ∃ u t, exec (.sched dir rate count) s = .next u ∧ repeatInstr .evSched k u = .next t ∧
        stepsOf t.trace = stepsOf s.trace ++
          List.replicate (min k count.toNat) (.step dir false s.cfg.schedUpdateDesired) ∧
        t.sch.schedCount.toNat = count.toNat - k ∧ t.sch.schedActive = decide (k < count.toNat) ∧
        t.sch.currentStep = s.sch.currentStep + BitVec.ofInt 32 (dirInt dir * (min k count.toNat : Nat))

/-- Under the direct policy, an enabled motor's ticks walk the error to the tolerance one step at a time and never past it: after
`k` ticks, for every `k` up to `abs(e) - 1`, exactly `k` steps in the sign of the error were issued and the error is smaller by
`k`; so after `abs(e) - 1` ticks the rotor is in tolerance (45_correction_scheduler.md R236, R239). -/
def Obligations.DirectTicksReachTolerance : Prop :=
  ∀ (s : State) (k : Nat), CanEnter 1 s → s.cfg.correctionPolicy = .direct → s.sch.tickEnabled = true →
    s.env.enableIn = true → s.fm.motorState ≠ .forcedDisabled → s.fm.motorState ≠ .overtemperature →
    k ≤ (stepError s).natAbs - 1 →
      ∃ t, repeatInstr .evTick k s = .next t ∧ t.sch.desiredStep = s.sch.desiredStep ∧
        (stepError t).natAbs = (stepError s).natAbs - k ∧
        stepsOf t.trace = stepsOf s.trace ++ List.replicate k (.step (dirOf (stepError s)) false false) ∧
        (k = (stepError s).natAbs - 1 → inTolerance (stepError t) = true)
end

