-- ==== Sys2Proof/Laws/Decode.lean ====
section
/-! SUPPORT. The fields of a packed command word, and the round trips of the operand codes (30_encoding.md R90, R91). -/

namespace Sys2Proof

/-! ### The four fields -/

@[simp] theorem cwB_packCw (op sel : Byte) (a : Word) (b : U32) : cwB (packCw op sel a b) = b := by
  apply BitVec.eq_of_getLsbD_eq
  intro i hi
  simp only [cwB, packCw, BitVec.getLsbD_extractLsb', BitVec.getLsbD_append]
  simp [hi]

@[simp] theorem cwA_packCw (op sel : Byte) (a : Word) (b : U32) : cwA (packCw op sel a b) = a := by
  apply BitVec.eq_of_getLsbD_eq
  intro i hi
  simp only [cwA, packCw, BitVec.getLsbD_extractLsb', BitVec.getLsbD_append]
  have h1 : ¬ 32 + i < 32 := by omega
  have h2 : 32 + i - 32 = i := by omega
  simp [hi, h1, h2]

@[simp] theorem cwSel_packCw (op sel : Byte) (a : Word) (b : U32) : cwSel (packCw op sel a b) = sel := by
  apply BitVec.eq_of_getLsbD_eq
  intro i hi
  simp only [cwSel, packCw, BitVec.getLsbD_extractLsb', BitVec.getLsbD_append]
  have h1 : ¬ 48 + i < 32 := by omega
  have h2 : ¬ 48 + i - 32 < 16 := by omega
  have h3 : 48 + i - 32 - 16 = i := by omega
  simp [hi, h1, h2, h3]

@[simp] theorem cwOp_packCw (op sel : Byte) (a : Word) (b : U32) : cwOp (packCw op sel a b) = op := by
  apply BitVec.eq_of_getLsbD_eq
  intro i hi
  simp only [cwOp, packCw, BitVec.getLsbD_extractLsb', BitVec.getLsbD_append]
  have h1 : ¬ 56 + i < 32 := by omega
  have h2 : ¬ 56 + i - 32 < 16 := by omega
  have h3 : ¬ 56 + i - 32 - 16 < 8 := by omega
  have h4 : 56 + i - 32 - 16 - 8 = i := by omega
  simp [hi, h1, h2, h3, h4]

/-! ### Operand codes -/

@[simp] theorem Chan.ofCode_code (ch : Chan) : Chan.ofCode ch.code = some ch := by cases ch <;> rfl

@[simp] theorem MotorState.ofCode_code (st : MotorState) : MotorState.ofCode st.code = some st := by cases st <;> rfl

@[simp] theorem Dir.ofBit_bit (d : Dir) : Dir.ofBit d.bit = d := by cases d <;> rfl

@[simp] theorem AccessMode.ofCode_code (m : AccessMode) : AccessMode.ofCode m.code = some m := by cases m <;> rfl

theorem TxbElem.ofIndex_index (e : TxbElem) : TxbElem.ofIndex e.index = some e := by
  cases e with
  | cmd => rfl
  | safety => rfl
  | count => rfl
  | data i => revert i; decide

theorem selCode_low (c : BitVec 3) : (selCode c).extractLsb' 0 3 = c := by revert c; decide

theorem selCode_high (c : BitVec 3) : selCode c &&& 0xF8 = 0 := by revert c; decide

theorem flag0_selFlag (b : Bool) : flag0 (selFlag b) = b := by cases b <;> rfl

theorem selFlag_high (b : Bool) : selFlag b &&& 0xFE = 0 := by cases b <;> rfl

theorem regOf_fieldReg (r : RegNum) : regOf (fieldReg r) = r := by
  apply BitVec.eq_of_getLsbD_eq
  intro i hi
  simp only [regOf, fieldReg, BitVec.getLsbD_extractLsb', BitVec.getLsbD_setWidth]
  have : i < 16 := by omega
  simp [hi, this]

theorem fieldReg_high (r : RegNum) : fieldReg r &&& 0xFC00 = 0 := by
  apply BitVec.eq_of_toNat_eq
  rw [BitVec.toNat_and, fieldReg, BitVec.toNat_setWidth]
  have := r.isLt
  have h : r.toNat % 2 ^ 16 = r.toNat := Nat.mod_eq_of_lt (by omega)
  rw [h]
  apply Nat.eq_of_testBit_eq
  intro i
  rw [Nat.testBit_and]
  by_cases hi : i < 10
  · have : Nat.testBit (64512 : Word).toNat i = false := by
      interval_cases i <;> decide
    rw [this, Bool.and_false]; simp
  · have : Nat.testBit r.toNat i = false := Nat.testBit_lt_two_pow (lt_of_lt_of_le r.isLt (Nat.pow_le_pow_right (by omega) (by omega)))
    simp [this]

theorem lowWord_fieldWord (v : Word) : lowWord (fieldWord v) = v := by
  apply BitVec.eq_of_getLsbD_eq
  intro i hi
  simp only [lowWord, fieldWord, BitVec.getLsbD_extractLsb', BitVec.getLsbD_setWidth]
  have : i < 32 := by omega
  simp [hi, this]

theorem fieldWord_high (v : Word) : fieldWord v &&& 0xFFFF0000 = 0 := by
  apply BitVec.eq_of_toNat_eq
  rw [BitVec.toNat_and, fieldWord, BitVec.toNat_setWidth]
  have := v.isLt
  have h : v.toNat % 2 ^ 32 = v.toNat := Nat.mod_eq_of_lt (by omega)
  rw [h]
  apply Nat.eq_of_testBit_eq
  intro i
  rw [Nat.testBit_and]
  by_cases hi : i < 16
  · have : Nat.testBit (4294901760 : U32).toNat i = false := by
      interval_cases i <;> decide
    rw [this, Bool.and_false]; simp
  · have : Nat.testBit v.toNat i = false := Nat.testBit_lt_two_pow (lt_of_lt_of_le v.isLt (Nat.pow_le_pow_right (by omega) (by omega)))
    simp [this]

theorem count_high (n : BitVec 4) : (n.setWidth 32 : U32) &&& 0xFFFFFFF0 = 0 := by revert n; decide

theorem count_low (n : BitVec 4) : (n.setWidth 32 : U32).extractLsb' 0 4 = n := by revert n; decide

theorem stateSel_high (clr : Bool) (st : MotorState) : (BitVec.ofBool clr ++ 0#4 ++ st.code : Byte) &&& 0x78 = 0 := by
  cases clr <;> cases st <;> rfl

theorem stateSel_low (clr : Bool) (st : MotorState) : (BitVec.ofBool clr ++ 0#4 ++ st.code : Byte).extractLsb' 0 3 = st.code := by
  cases clr <;> cases st <;> rfl

theorem stateSel_flag (clr : Bool) (st : MotorState) : (BitVec.ofBool clr ++ 0#4 ++ st.code : Byte).getLsbD 7 = clr := by
  cases clr <;> cases st <;> rfl

end Sys2Proof
end

