-- ==== Sys2Proof/Laws/State.lean ====
section
/-! SUPPORT. The small lemmas of State's setters: for each setter, what every field is after it. -/

namespace Sys2Proof.Machine

open Sys2Proof

/-! ### `withCs` -/

@[simp] theorem State.withCs_cfg (s : State) (x : BitVec 8) : (s.withCs x).cfg = s.cfg := rfl
@[simp] theorem State.withCs_csCount (s : State) (x : BitVec 8) : (s.withCs x).csCount = x := rfl
@[simp] theorem State.withCs_est (s : State) (x : BitVec 8) : (s.withCs x).est = s.est := rfl
@[simp] theorem State.withCs_fm (s : State) (x : BitVec 8) : (s.withCs x).fm = s.fm := rfl
@[simp] theorem State.withCs_sch (s : State) (x : BitVec 8) : (s.withCs x).sch = s.sch := rfl
@[simp] theorem State.withCs_ma (s : State) (x : BitVec 8) : (s.withCs x).ma = s.ma := rfl
@[simp] theorem State.withCs_cache (s : State) (x : BitVec 8) : (s.withCs x).cache = s.cache := rfl
@[simp] theorem State.withCs_txb (s : State) (x : BitVec 8) : (s.withCs x).txb = s.txb := rfl
@[simp] theorem State.withCs_bus (s : State) (x : BitVec 8) : (s.withCs x).bus = s.bus := rfl
@[simp] theorem State.withCs_pending (s : State) (x : BitVec 8) : (s.withCs x).pending = s.pending := rfl
@[simp] theorem State.withCs_trace (s : State) (x : BitVec 8) : (s.withCs x).trace = s.trace := rfl
@[simp] theorem State.withCs_busy (s : State) (x : BitVec 8) : (s.withCs x).busy = s.busy := rfl
@[simp] theorem State.withCs_env (s : State) (x : BitVec 8) : (s.withCs x).env = s.env := rfl
@[simp] theorem State.withCs_withCs (s : State) (x y : BitVec 8) : (s.withCs x).withCs y = s.withCs y := rfl
@[simp] theorem State.withCs_same (s : State) : s.withCs s.csCount = s := rfl

/-! ### `withEst` -/

@[simp] theorem State.withEst_cfg (s : State) (x : EstRegs) : (s.withEst x).cfg = s.cfg := rfl
@[simp] theorem State.withEst_csCount (s : State) (x : EstRegs) : (s.withEst x).csCount = s.csCount := rfl
@[simp] theorem State.withEst_est (s : State) (x : EstRegs) : (s.withEst x).est = x := rfl
@[simp] theorem State.withEst_fm (s : State) (x : EstRegs) : (s.withEst x).fm = s.fm := rfl
@[simp] theorem State.withEst_sch (s : State) (x : EstRegs) : (s.withEst x).sch = s.sch := rfl
@[simp] theorem State.withEst_ma (s : State) (x : EstRegs) : (s.withEst x).ma = s.ma := rfl
@[simp] theorem State.withEst_cache (s : State) (x : EstRegs) : (s.withEst x).cache = s.cache := rfl
@[simp] theorem State.withEst_txb (s : State) (x : EstRegs) : (s.withEst x).txb = s.txb := rfl
@[simp] theorem State.withEst_bus (s : State) (x : EstRegs) : (s.withEst x).bus = s.bus := rfl
@[simp] theorem State.withEst_pending (s : State) (x : EstRegs) : (s.withEst x).pending = s.pending := rfl
@[simp] theorem State.withEst_trace (s : State) (x : EstRegs) : (s.withEst x).trace = s.trace := rfl
@[simp] theorem State.withEst_busy (s : State) (x : EstRegs) : (s.withEst x).busy = s.busy := rfl
@[simp] theorem State.withEst_env (s : State) (x : EstRegs) : (s.withEst x).env = s.env := rfl
@[simp] theorem State.withEst_withEst (s : State) (x y : EstRegs) : (s.withEst x).withEst y = s.withEst y := rfl
@[simp] theorem State.withEst_same (s : State) : s.withEst s.est = s := rfl

/-! ### `withFm` -/

@[simp] theorem State.withFm_cfg (s : State) (x : FaultRegs) : (s.withFm x).cfg = s.cfg := rfl
@[simp] theorem State.withFm_csCount (s : State) (x : FaultRegs) : (s.withFm x).csCount = s.csCount := rfl
@[simp] theorem State.withFm_est (s : State) (x : FaultRegs) : (s.withFm x).est = s.est := rfl
@[simp] theorem State.withFm_fm (s : State) (x : FaultRegs) : (s.withFm x).fm = x := rfl
@[simp] theorem State.withFm_sch (s : State) (x : FaultRegs) : (s.withFm x).sch = s.sch := rfl
@[simp] theorem State.withFm_ma (s : State) (x : FaultRegs) : (s.withFm x).ma = s.ma := rfl
@[simp] theorem State.withFm_cache (s : State) (x : FaultRegs) : (s.withFm x).cache = s.cache := rfl
@[simp] theorem State.withFm_txb (s : State) (x : FaultRegs) : (s.withFm x).txb = s.txb := rfl
@[simp] theorem State.withFm_bus (s : State) (x : FaultRegs) : (s.withFm x).bus = s.bus := rfl
@[simp] theorem State.withFm_pending (s : State) (x : FaultRegs) : (s.withFm x).pending = s.pending := rfl
@[simp] theorem State.withFm_trace (s : State) (x : FaultRegs) : (s.withFm x).trace = s.trace := rfl
@[simp] theorem State.withFm_busy (s : State) (x : FaultRegs) : (s.withFm x).busy = s.busy := rfl
@[simp] theorem State.withFm_env (s : State) (x : FaultRegs) : (s.withFm x).env = s.env := rfl
@[simp] theorem State.withFm_withFm (s : State) (x y : FaultRegs) : (s.withFm x).withFm y = s.withFm y := rfl
@[simp] theorem State.withFm_same (s : State) : s.withFm s.fm = s := rfl

/-! ### `withSch` -/

@[simp] theorem State.withSch_cfg (s : State) (x : SchedRegs) : (s.withSch x).cfg = s.cfg := rfl
@[simp] theorem State.withSch_csCount (s : State) (x : SchedRegs) : (s.withSch x).csCount = s.csCount := rfl
@[simp] theorem State.withSch_est (s : State) (x : SchedRegs) : (s.withSch x).est = s.est := rfl
@[simp] theorem State.withSch_fm (s : State) (x : SchedRegs) : (s.withSch x).fm = s.fm := rfl
@[simp] theorem State.withSch_sch (s : State) (x : SchedRegs) : (s.withSch x).sch = x := rfl
@[simp] theorem State.withSch_ma (s : State) (x : SchedRegs) : (s.withSch x).ma = s.ma := rfl
@[simp] theorem State.withSch_cache (s : State) (x : SchedRegs) : (s.withSch x).cache = s.cache := rfl
@[simp] theorem State.withSch_txb (s : State) (x : SchedRegs) : (s.withSch x).txb = s.txb := rfl
@[simp] theorem State.withSch_bus (s : State) (x : SchedRegs) : (s.withSch x).bus = s.bus := rfl
@[simp] theorem State.withSch_pending (s : State) (x : SchedRegs) : (s.withSch x).pending = s.pending := rfl
@[simp] theorem State.withSch_trace (s : State) (x : SchedRegs) : (s.withSch x).trace = s.trace := rfl
@[simp] theorem State.withSch_busy (s : State) (x : SchedRegs) : (s.withSch x).busy = s.busy := rfl
@[simp] theorem State.withSch_env (s : State) (x : SchedRegs) : (s.withSch x).env = s.env := rfl
@[simp] theorem State.withSch_withSch (s : State) (x y : SchedRegs) : (s.withSch x).withSch y = s.withSch y := rfl
@[simp] theorem State.withSch_same (s : State) : s.withSch s.sch = s := rfl

/-! ### `withMa` -/

@[simp] theorem State.withMa_cfg (s : State) (x : Bank Filter) : (s.withMa x).cfg = s.cfg := rfl
@[simp] theorem State.withMa_csCount (s : State) (x : Bank Filter) : (s.withMa x).csCount = s.csCount := rfl
@[simp] theorem State.withMa_est (s : State) (x : Bank Filter) : (s.withMa x).est = s.est := rfl
@[simp] theorem State.withMa_fm (s : State) (x : Bank Filter) : (s.withMa x).fm = s.fm := rfl
@[simp] theorem State.withMa_sch (s : State) (x : Bank Filter) : (s.withMa x).sch = s.sch := rfl
@[simp] theorem State.withMa_ma (s : State) (x : Bank Filter) : (s.withMa x).ma = x := rfl
@[simp] theorem State.withMa_cache (s : State) (x : Bank Filter) : (s.withMa x).cache = s.cache := rfl
@[simp] theorem State.withMa_txb (s : State) (x : Bank Filter) : (s.withMa x).txb = s.txb := rfl
@[simp] theorem State.withMa_bus (s : State) (x : Bank Filter) : (s.withMa x).bus = s.bus := rfl
@[simp] theorem State.withMa_pending (s : State) (x : Bank Filter) : (s.withMa x).pending = s.pending := rfl
@[simp] theorem State.withMa_trace (s : State) (x : Bank Filter) : (s.withMa x).trace = s.trace := rfl
@[simp] theorem State.withMa_busy (s : State) (x : Bank Filter) : (s.withMa x).busy = s.busy := rfl
@[simp] theorem State.withMa_env (s : State) (x : Bank Filter) : (s.withMa x).env = s.env := rfl
@[simp] theorem State.withMa_withMa (s : State) (x y : Bank Filter) : (s.withMa x).withMa y = s.withMa y := rfl
@[simp] theorem State.withMa_same (s : State) : s.withMa s.ma = s := rfl

/-! ### `withCache` -/

@[simp] theorem State.withCache_cfg (s : State) (x : List (Option Word)) : (s.withCache x).cfg = s.cfg := rfl
@[simp] theorem State.withCache_csCount (s : State) (x : List (Option Word)) : (s.withCache x).csCount = s.csCount := rfl
@[simp] theorem State.withCache_est (s : State) (x : List (Option Word)) : (s.withCache x).est = s.est := rfl
@[simp] theorem State.withCache_fm (s : State) (x : List (Option Word)) : (s.withCache x).fm = s.fm := rfl
@[simp] theorem State.withCache_sch (s : State) (x : List (Option Word)) : (s.withCache x).sch = s.sch := rfl
@[simp] theorem State.withCache_ma (s : State) (x : List (Option Word)) : (s.withCache x).ma = s.ma := rfl
@[simp] theorem State.withCache_cache (s : State) (x : List (Option Word)) : (s.withCache x).cache = x := rfl
@[simp] theorem State.withCache_txb (s : State) (x : List (Option Word)) : (s.withCache x).txb = s.txb := rfl
@[simp] theorem State.withCache_bus (s : State) (x : List (Option Word)) : (s.withCache x).bus = s.bus := rfl
@[simp] theorem State.withCache_pending (s : State) (x : List (Option Word)) : (s.withCache x).pending = s.pending := rfl
@[simp] theorem State.withCache_trace (s : State) (x : List (Option Word)) : (s.withCache x).trace = s.trace := rfl
@[simp] theorem State.withCache_busy (s : State) (x : List (Option Word)) : (s.withCache x).busy = s.busy := rfl
@[simp] theorem State.withCache_env (s : State) (x : List (Option Word)) : (s.withCache x).env = s.env := rfl
@[simp] theorem State.withCache_withCache (s : State) (x y : List (Option Word)) : (s.withCache x).withCache y = s.withCache y := rfl
@[simp] theorem State.withCache_same (s : State) : s.withCache s.cache = s := rfl

/-! ### `withTxb` -/

@[simp] theorem State.withTxb_cfg (s : State) (x : Txb) : (s.withTxb x).cfg = s.cfg := rfl
@[simp] theorem State.withTxb_csCount (s : State) (x : Txb) : (s.withTxb x).csCount = s.csCount := rfl
@[simp] theorem State.withTxb_est (s : State) (x : Txb) : (s.withTxb x).est = s.est := rfl
@[simp] theorem State.withTxb_fm (s : State) (x : Txb) : (s.withTxb x).fm = s.fm := rfl
@[simp] theorem State.withTxb_sch (s : State) (x : Txb) : (s.withTxb x).sch = s.sch := rfl
@[simp] theorem State.withTxb_ma (s : State) (x : Txb) : (s.withTxb x).ma = s.ma := rfl
@[simp] theorem State.withTxb_cache (s : State) (x : Txb) : (s.withTxb x).cache = s.cache := rfl
@[simp] theorem State.withTxb_txb (s : State) (x : Txb) : (s.withTxb x).txb = x := rfl
@[simp] theorem State.withTxb_bus (s : State) (x : Txb) : (s.withTxb x).bus = s.bus := rfl
@[simp] theorem State.withTxb_pending (s : State) (x : Txb) : (s.withTxb x).pending = s.pending := rfl
@[simp] theorem State.withTxb_trace (s : State) (x : Txb) : (s.withTxb x).trace = s.trace := rfl
@[simp] theorem State.withTxb_busy (s : State) (x : Txb) : (s.withTxb x).busy = s.busy := rfl
@[simp] theorem State.withTxb_env (s : State) (x : Txb) : (s.withTxb x).env = s.env := rfl
@[simp] theorem State.withTxb_withTxb (s : State) (x y : Txb) : (s.withTxb x).withTxb y = s.withTxb y := rfl
@[simp] theorem State.withTxb_same (s : State) : s.withTxb s.txb = s := rfl

/-! ### `withBus` -/

@[simp] theorem State.withBus_cfg (s : State) (x : Bus) : (s.withBus x).cfg = s.cfg := rfl
@[simp] theorem State.withBus_csCount (s : State) (x : Bus) : (s.withBus x).csCount = s.csCount := rfl
@[simp] theorem State.withBus_est (s : State) (x : Bus) : (s.withBus x).est = s.est := rfl
@[simp] theorem State.withBus_fm (s : State) (x : Bus) : (s.withBus x).fm = s.fm := rfl
@[simp] theorem State.withBus_sch (s : State) (x : Bus) : (s.withBus x).sch = s.sch := rfl
@[simp] theorem State.withBus_ma (s : State) (x : Bus) : (s.withBus x).ma = s.ma := rfl
@[simp] theorem State.withBus_cache (s : State) (x : Bus) : (s.withBus x).cache = s.cache := rfl
@[simp] theorem State.withBus_txb (s : State) (x : Bus) : (s.withBus x).txb = s.txb := rfl
@[simp] theorem State.withBus_bus (s : State) (x : Bus) : (s.withBus x).bus = x := rfl
@[simp] theorem State.withBus_pending (s : State) (x : Bus) : (s.withBus x).pending = s.pending := rfl
@[simp] theorem State.withBus_trace (s : State) (x : Bus) : (s.withBus x).trace = s.trace := rfl
@[simp] theorem State.withBus_busy (s : State) (x : Bus) : (s.withBus x).busy = s.busy := rfl
@[simp] theorem State.withBus_env (s : State) (x : Bus) : (s.withBus x).env = s.env := rfl
@[simp] theorem State.withBus_withBus (s : State) (x y : Bus) : (s.withBus x).withBus y = s.withBus y := rfl
@[simp] theorem State.withBus_same (s : State) : s.withBus s.bus = s := rfl

/-! ### `withPending` -/

@[simp] theorem State.withPending_cfg (s : State) (x : BitVec 4) : (s.withPending x).cfg = s.cfg := rfl
@[simp] theorem State.withPending_csCount (s : State) (x : BitVec 4) : (s.withPending x).csCount = s.csCount := rfl
@[simp] theorem State.withPending_est (s : State) (x : BitVec 4) : (s.withPending x).est = s.est := rfl
@[simp] theorem State.withPending_fm (s : State) (x : BitVec 4) : (s.withPending x).fm = s.fm := rfl
@[simp] theorem State.withPending_sch (s : State) (x : BitVec 4) : (s.withPending x).sch = s.sch := rfl
@[simp] theorem State.withPending_ma (s : State) (x : BitVec 4) : (s.withPending x).ma = s.ma := rfl
@[simp] theorem State.withPending_cache (s : State) (x : BitVec 4) : (s.withPending x).cache = s.cache := rfl
@[simp] theorem State.withPending_txb (s : State) (x : BitVec 4) : (s.withPending x).txb = s.txb := rfl
@[simp] theorem State.withPending_bus (s : State) (x : BitVec 4) : (s.withPending x).bus = s.bus := rfl
@[simp] theorem State.withPending_pending (s : State) (x : BitVec 4) : (s.withPending x).pending = x := rfl
@[simp] theorem State.withPending_trace (s : State) (x : BitVec 4) : (s.withPending x).trace = s.trace := rfl
@[simp] theorem State.withPending_busy (s : State) (x : BitVec 4) : (s.withPending x).busy = s.busy := rfl
@[simp] theorem State.withPending_env (s : State) (x : BitVec 4) : (s.withPending x).env = s.env := rfl
@[simp] theorem State.withPending_withPending (s : State) (x y : BitVec 4) : (s.withPending x).withPending y = s.withPending y := rfl
@[simp] theorem State.withPending_same (s : State) : s.withPending s.pending = s := rfl

/-! ### `withBusy` -/

@[simp] theorem State.withBusy_cfg (s : State) (x : Option InFlight) : (s.withBusy x).cfg = s.cfg := rfl
@[simp] theorem State.withBusy_csCount (s : State) (x : Option InFlight) : (s.withBusy x).csCount = s.csCount := rfl
@[simp] theorem State.withBusy_est (s : State) (x : Option InFlight) : (s.withBusy x).est = s.est := rfl
@[simp] theorem State.withBusy_fm (s : State) (x : Option InFlight) : (s.withBusy x).fm = s.fm := rfl
@[simp] theorem State.withBusy_sch (s : State) (x : Option InFlight) : (s.withBusy x).sch = s.sch := rfl
@[simp] theorem State.withBusy_ma (s : State) (x : Option InFlight) : (s.withBusy x).ma = s.ma := rfl
@[simp] theorem State.withBusy_cache (s : State) (x : Option InFlight) : (s.withBusy x).cache = s.cache := rfl
@[simp] theorem State.withBusy_txb (s : State) (x : Option InFlight) : (s.withBusy x).txb = s.txb := rfl
@[simp] theorem State.withBusy_bus (s : State) (x : Option InFlight) : (s.withBusy x).bus = s.bus := rfl
@[simp] theorem State.withBusy_pending (s : State) (x : Option InFlight) : (s.withBusy x).pending = s.pending := rfl
@[simp] theorem State.withBusy_trace (s : State) (x : Option InFlight) : (s.withBusy x).trace = s.trace := rfl
@[simp] theorem State.withBusy_busy (s : State) (x : Option InFlight) : (s.withBusy x).busy = x := rfl
@[simp] theorem State.withBusy_env (s : State) (x : Option InFlight) : (s.withBusy x).env = s.env := rfl
@[simp] theorem State.withBusy_withBusy (s : State) (x y : Option InFlight) : (s.withBusy x).withBusy y = s.withBusy y := rfl
@[simp] theorem State.withBusy_same (s : State) : s.withBusy s.busy = s := rfl

/-! ### `withEnv` -/

@[simp] theorem State.withEnv_cfg (s : State) (x : Env) : (s.withEnv x).cfg = s.cfg := rfl
@[simp] theorem State.withEnv_csCount (s : State) (x : Env) : (s.withEnv x).csCount = s.csCount := rfl
@[simp] theorem State.withEnv_est (s : State) (x : Env) : (s.withEnv x).est = s.est := rfl
@[simp] theorem State.withEnv_fm (s : State) (x : Env) : (s.withEnv x).fm = s.fm := rfl
@[simp] theorem State.withEnv_sch (s : State) (x : Env) : (s.withEnv x).sch = s.sch := rfl
@[simp] theorem State.withEnv_ma (s : State) (x : Env) : (s.withEnv x).ma = s.ma := rfl
@[simp] theorem State.withEnv_cache (s : State) (x : Env) : (s.withEnv x).cache = s.cache := rfl
@[simp] theorem State.withEnv_txb (s : State) (x : Env) : (s.withEnv x).txb = s.txb := rfl
@[simp] theorem State.withEnv_bus (s : State) (x : Env) : (s.withEnv x).bus = s.bus := rfl
@[simp] theorem State.withEnv_pending (s : State) (x : Env) : (s.withEnv x).pending = s.pending := rfl
@[simp] theorem State.withEnv_trace (s : State) (x : Env) : (s.withEnv x).trace = s.trace := rfl
@[simp] theorem State.withEnv_busy (s : State) (x : Env) : (s.withEnv x).busy = s.busy := rfl
@[simp] theorem State.withEnv_env (s : State) (x : Env) : (s.withEnv x).env = x := rfl
@[simp] theorem State.withEnv_withEnv (s : State) (x y : Env) : (s.withEnv x).withEnv y = s.withEnv y := rfl
@[simp] theorem State.withEnv_same (s : State) : s.withEnv s.env = s := rfl

/-! ### `emit` -/

@[simp] theorem State.emit_cfg (s : State) (x : TraceItem) : (s.emit x).cfg = s.cfg := rfl
@[simp] theorem State.emit_csCount (s : State) (x : TraceItem) : (s.emit x).csCount = s.csCount := rfl
@[simp] theorem State.emit_est (s : State) (x : TraceItem) : (s.emit x).est = s.est := rfl
@[simp] theorem State.emit_fm (s : State) (x : TraceItem) : (s.emit x).fm = s.fm := rfl
@[simp] theorem State.emit_sch (s : State) (x : TraceItem) : (s.emit x).sch = s.sch := rfl
@[simp] theorem State.emit_ma (s : State) (x : TraceItem) : (s.emit x).ma = s.ma := rfl
@[simp] theorem State.emit_cache (s : State) (x : TraceItem) : (s.emit x).cache = s.cache := rfl
@[simp] theorem State.emit_txb (s : State) (x : TraceItem) : (s.emit x).txb = s.txb := rfl
@[simp] theorem State.emit_bus (s : State) (x : TraceItem) : (s.emit x).bus = s.bus := rfl
@[simp] theorem State.emit_pending (s : State) (x : TraceItem) : (s.emit x).pending = s.pending := rfl
@[simp] theorem State.emit_trace (s : State) (x : TraceItem) : (s.emit x).trace = s.trace ++ [x] := rfl
@[simp] theorem State.emit_busy (s : State) (x : TraceItem) : (s.emit x).busy = s.busy := rfl
@[simp] theorem State.emit_env (s : State) (x : TraceItem) : (s.emit x).env = s.env := rfl

/-! ### `respond` -/

@[simp] theorem State.respond_cfg (s : State) (k : Status) (d : Long) : (s.respond k d).cfg = s.cfg := rfl
@[simp] theorem State.respond_csCount (s : State) (k : Status) (d : Long) : (s.respond k d).csCount = s.csCount := rfl
@[simp] theorem State.respond_est (s : State) (k : Status) (d : Long) : (s.respond k d).est = s.est := rfl
@[simp] theorem State.respond_fm (s : State) (k : Status) (d : Long) : (s.respond k d).fm = s.fm := rfl
@[simp] theorem State.respond_sch (s : State) (k : Status) (d : Long) : (s.respond k d).sch = s.sch := rfl
@[simp] theorem State.respond_ma (s : State) (k : Status) (d : Long) : (s.respond k d).ma = s.ma := rfl
@[simp] theorem State.respond_cache (s : State) (k : Status) (d : Long) : (s.respond k d).cache = s.cache := rfl
@[simp] theorem State.respond_txb (s : State) (k : Status) (d : Long) : (s.respond k d).txb = s.txb := rfl
@[simp] theorem State.respond_bus (s : State) (k : Status) (d : Long) : (s.respond k d).bus = s.bus := rfl
@[simp] theorem State.respond_pending (s : State) (k : Status) (d : Long) : (s.respond k d).pending = s.pending := rfl
@[simp] theorem State.respond_trace (s : State) (k : Status) (d : Long) : (s.respond k d).trace = s.trace ++ [.response k d] := rfl
@[simp] theorem State.respond_busy (s : State) (k : Status) (d : Long) : (s.respond k d).busy = s.busy := rfl
@[simp] theorem State.respond_env (s : State) (k : Status) (d : Long) : (s.respond k d).env = s.env := rfl

/-! ### Channels -/

@[simp] theorem Bank.get_set_same {α : Type} (b : Bank α) (ch : Chan) (x : α) : (b.set ch x).get ch = x := by
  cases ch <;> rfl

theorem Bank.get_set_other {α : Type} (b : Bank α) {ch ch' : Chan} (x : α) (h : ch' ≠ ch) :
    (b.set ch x).get ch' = b.get ch' := by
  cases ch <;> cases ch' <;> first | rfl | exact absurd rfl h

end Sys2Proof.Machine
end

