-- ==== Sys2Proof/Laws/Section.lean ====
section
/-! SUPPORT. The critical section: what `csEnter`, `csExit`, a section, a command and a handler can do, said once
(40_critical_section.md R130, R131, R134). -/

namespace Sys2Proof.Machine

open Sys2Proof

theorem csEnter_ok_iff {s t : State} :
    csEnter s = .ok t ↔ s.csCount ≠ 255 ∧ t = s.withCs (s.csCount + 1) := by
  unfold csEnter
  split
  · rename_i h; simp only [reduceCtorEq, false_iff]; exact fun q => q.1 h
  · rename_i h; rw [Except.ok.injEq]; exact ⟨fun q => ⟨h, q.symm⟩, fun q => q.2.symm⟩

theorem csExit_ok_iff {s t : State} :
    csExit s = .ok t ↔ s.csCount ≠ 0 ∧ t = s.withCs (s.csCount - 1) := by
  unfold csExit
  split
  · rename_i h; simp only [reduceCtorEq, false_iff]; exact fun q => q.1 h
  · rename_i h; rw [Except.ok.injEq]; exact ⟨fun q => ⟨h, q.symm⟩, fun q => q.2.symm⟩

theorem csEnter_error_iff {s : State} {f : Fault} : csEnter s = .error f ↔ s.csCount = 255 ∧ f = .csOverflow := by
  unfold csEnter
  split
  · rename_i h; rw [Except.error.injEq]; exact ⟨fun q => ⟨h, q.symm⟩, fun q => q.2.symm⟩
  · rename_i h; simp only [reduceCtorEq, false_iff]; exact fun q => h q.1

theorem csExit_error_iff {s : State} {f : Fault} : csExit s = .error f ↔ s.csCount = 0 ∧ f = .csUnderflow := by
  unfold csExit
  split
  · rename_i h; rw [Except.error.injEq]; exact ⟨fun q => ⟨h, q.symm⟩, fun q => q.2.symm⟩
  · rename_i h; simp only [reduceCtorEq, false_iff]; exact fun q => h q.1

/-- Entering and leaving once gives the depth back. -/
theorem succ_pred_depth (n : BitVec 8) : n + 1 - 1 = n := by simp

theorem succ_ne_zero_of_ne_full {n : BitVec 8} (h : n ≠ 255) : n + 1 ≠ 0 := by
  intro h0
  apply h
  bv_omega

/-- `n` entries raise the depth by `n` and change nothing else; they succeed exactly where 255 is not passed. -/
theorem csEnterMany_ok_iff {n : Nat} {s t : State} :
    csEnterMany n s = .ok t ↔ s.csCount.toNat + n ≤ 255 ∧ t = s.withCs (s.csCount + BitVec.ofNat 8 n) := by
  induction n generalizing s with
  | zero => simp [csEnterMany, eq_comm]; intro _; omega
  | succ n ih =>
    unfold csEnterMany
    cases h : csEnter s with
    | error f =>
      obtain ⟨h1, -⟩ := csEnter_error_iff.mp h
      simp [h1]
    | ok u =>
      obtain ⟨h1, rfl⟩ := csEnter_ok_iff.mp h
      have hn : s.csCount.toNat ≠ 255 := fun hh => h1 (by bv_omega)
      have ht : (s.csCount + 1).toNat = s.csCount.toNat + 1 := by
        have := s.csCount.isLt
        simp [BitVec.toNat_add]; omega
      have hv : s.csCount + 1 + BitVec.ofNat 8 n = s.csCount + BitVec.ofNat 8 (n + 1) := by
        rw [BitVec.add_assoc]; congr 1
        apply BitVec.eq_of_toNat_eq; simp [BitVec.toNat_add]; omega
      simp only [ih, State.withCs_csCount, ht, State.withCs_withCs, hv]
      constructor <;> rintro ⟨h2, h3⟩ <;> exact ⟨by omega, h3⟩

/-- `n` exits lower the depth by `n` and change nothing else; they succeed exactly where the depth is at least `n`. -/
theorem csExitMany_ok_iff {n : Nat} {s t : State} :
    csExitMany n s = .ok t ↔ n ≤ s.csCount.toNat ∧ t = s.withCs (s.csCount - BitVec.ofNat 8 n) := by
  induction n generalizing s with
  | zero => simp [csExitMany, eq_comm]
  | succ n ih =>
    unfold csExitMany
    cases h : csExit s with
    | error f =>
      obtain ⟨h1, -⟩ := csExit_error_iff.mp h
      simp [h1]
    | ok u =>
      obtain ⟨h1, rfl⟩ := csExit_ok_iff.mp h
      have hn : s.csCount.toNat ≠ 0 := fun hh => h1 (by bv_omega)
      have ht : (s.csCount - 1).toNat = s.csCount.toNat - 1 := by
        have := s.csCount.isLt
        simp [BitVec.toNat_sub]; omega
      have hv : s.csCount - 1 - BitVec.ofNat 8 n = s.csCount - BitVec.ofNat 8 (n + 1) := by
        rw [BitVec.sub_sub]; congr 1
        apply BitVec.eq_of_toNat_eq; simp [BitVec.toNat_add]; omega
      simp only [ih, State.withCs_csCount, ht, State.withCs_withCs, hv]
      constructor <;> rintro ⟨h2, h3⟩ <;> exact ⟨by omega, h3⟩

/-- A section succeeds exactly where it can be entered, its body succeeds inside and it can be left. -/
theorem inSection_ok_iff {α : Type} {body : State → Except Fault (α × State)} {s t : State} {a : α} :
    inSection body s = .ok (a, t) ↔
      s.csCount ≠ 255 ∧ ∃ u, body (s.withCs (s.csCount + 1)) = .ok (a, u) ∧ u.csCount ≠ 0 ∧ t = u.withCs (u.csCount - 1) := by
  unfold inSection
  cases h : csEnter s with
  | error f =>
    obtain ⟨h1, -⟩ := csEnter_error_iff.mp h
    simp [h1]
  | ok v =>
    obtain ⟨h1, rfl⟩ := csEnter_ok_iff.mp h
    cases hb : body (s.withCs (s.csCount + 1)) with
    | error f => simp only [hb, reduceCtorEq, false_iff]; rintro ⟨-, u, h3, -⟩; cases h3
    | ok r =>
      obtain ⟨b, u⟩ := r
      cases hx : csExit u with
      | error f =>
        obtain ⟨h2, -⟩ := csExit_error_iff.mp hx
        simp only [hb, hx, reduceCtorEq, false_iff]
        rintro ⟨-, u', h3, h4, -⟩
        cases h3
        exact h4 h2
      | ok w =>
        obtain ⟨h2, rfl⟩ := csExit_ok_iff.mp hx
        simp only [hb, hx, Except.ok.injEq, Prod.mk.injEq]
        constructor
        · rintro ⟨rfl, rfl⟩; exact ⟨h1, u, ⟨rfl, rfl⟩, h2, rfl⟩
        · rintro ⟨-, u', ⟨rfl, rfl⟩, -, rfl⟩; exact ⟨rfl, rfl⟩

/-- A section whose body keeps the depth: the depth of the start is back at the end. -/
theorem inSection_balanced {α : Type} {body : State → Except Fault (α × State)} {s u : State} {a : α}
    (h : s.csCount ≠ 255) (hb : body (s.withCs (s.csCount + 1)) = .ok (a, u)) (hu : u.csCount = s.csCount + 1) :
    inSection body s = .ok (a, u.withCs s.csCount) :=
  inSection_ok_iff.mpr ⟨h, u, hb, hu ▸ succ_ne_zero_of_ne_full h, by rw [hu, succ_pred_depth]⟩

/-- A command whose body keeps the depth runs to its response. -/
theorem command_balanced {body : State → Except Fault (Reply × State)} {s u : State} {r : Reply}
    (h : s.csCount ≠ 255) (hb : body (s.withCs (s.csCount + 1)) = .ok (r, u)) (hu : u.csCount = s.csCount + 1) :
    command body s = .next ((u.withCs s.csCount).respond r.status r.data) := by
  simp [command, inSection_balanced h hb hu, answer]

/-- Everything a command can do where it gives a next state. -/
theorem command_next_iff {body : State → Except Fault (Reply × State)} {s t : State} :
    command body s = .next t ↔
      s.csCount ≠ 255 ∧ ∃ r u, body (s.withCs (s.csCount + 1)) = .ok (r, u) ∧ u.csCount ≠ 0 ∧
        t = (u.withCs (u.csCount - 1)).respond r.status r.data := by
  unfold command
  cases h : inSection body s with
  | error f =>
    simp only [answer, reduceCtorEq, false_iff]
    rintro ⟨h1, r, u, h2, h3, -⟩
    rw [inSection_ok_iff.mpr ⟨h1, u, h2, h3, rfl⟩] at h
    cases h
  | ok q =>
    obtain ⟨r, v⟩ := q
    obtain ⟨h1, u, h2, h3, rfl⟩ := inSection_ok_iff.mp h
    simp only [answer, Host.Outcome.next.injEq]
    constructor
    · rintro rfl; exact ⟨h1, r, u, h2, h3, rfl⟩
    · rintro ⟨-, r', u', h4, -, rfl⟩
      rw [h2] at h4
      cases h4
      rfl

/-- The body of a handler ends well exactly where it gives a state. -/
@[simp] theorem silent_ok_iff {r : Except Fault State} {a : Unit} {u : State} : silent r = .ok (a, u) ↔ r = .ok u := by
  cases r <;> simp [silent, Except.map]

/-- Everything an event handler can do where it gives a next state. -/
theorem handler_next_iff {body : State → Except Fault State} {s t : State} :
    handler body s = .next t ↔
      s.csCount ≠ 255 ∧ ∃ u, body (s.withCs (s.csCount + 1)) = .ok u ∧ u.csCount ≠ 0 ∧ t = u.withCs (u.csCount - 1) := by
  have key : handler body s = .next t ↔ inSection (fun s1 => silent (body s1)) s = .ok ((), t) := by
    unfold handler
    cases inSection (fun s1 => silent (body s1)) s with
    | error f => simp
    | ok q => obtain ⟨a, v⟩ := q; simp
  rw [key, inSection_ok_iff]
  simp

/-- A handler whose body keeps the depth. -/
theorem handler_balanced {body : State → Except Fault State} {s u : State} (h : s.csCount ≠ 255)
    (hb : body (s.withCs (s.csCount + 1)) = .ok u) (hu : u.csCount = s.csCount + 1) :
    handler body s = .next (u.withCs s.csCount) :=
  handler_next_iff.mpr ⟨h, u, hb, hu ▸ succ_ne_zero_of_ne_full h, by rw [hu, succ_pred_depth]⟩

end Sys2Proof.Machine
end

