-- ==== Sys2Proof/Laws/Transport.lean ====
section
/-! SUPPORT. The transport: what an exchange, the three transactions, the cache update and a read attempt leave unchanged, said
once each (20_memory.md R66 to R69, 42_register_protocol.md R150, R154, R155). -/

namespace Sys2Proof.Machine

open Sys2Proof

/-- The inputs that no transport operation touches. -/
def Env.inputs (e : Env) : U32 × Bool × Bool × List Long × List Moment :=
  (e.now, e.enableIn, e.dirIn, e.port, e.moments)

/-- What no transport operation and no cache update touches: configuration, depth, the registers of the three
components, the filters, the pending bits, the command in flight, the inputs. -/
structure SameCore (s t : State) : Prop where
  cfg : t.cfg = s.cfg
  csCount : t.csCount = s.csCount
  est : t.est = s.est
  fm : t.fm = s.fm
  sch : t.sch = s.sch
  ma : t.ma = s.ma
  pending : t.pending = s.pending
  busy : t.busy = s.busy
  inputs : t.env.inputs = s.env.inputs

theorem SameCore.refl (s : State) : SameCore s s := ⟨rfl, rfl, rfl, rfl, rfl, rfl, rfl, rfl, rfl⟩

theorem SameCore.trans {s t u : State} (h : SameCore s t) (k : SameCore t u) : SameCore s u :=
  ⟨k.cfg.trans h.cfg, k.csCount.trans h.csCount, k.est.trans h.est, k.fm.trans h.fm, k.sch.trans h.sch, k.ma.trans h.ma,
    k.pending.trans h.pending, k.busy.trans h.busy, k.inputs.trans h.inputs⟩

theorem selAssert_sameCore (s : State) : SameCore s (selAssert s) := ⟨rfl, rfl, rfl, rfl, rfl, rfl, rfl, rfl, rfl⟩

theorem selDeassert_sameCore (s : State) : SameCore s (selDeassert s) := ⟨rfl, rfl, rfl, rfl, rfl, rfl, rfl, rfl, rfl⟩

theorem setBusMode_sameCore (m : BusMode) (s : State) : SameCore s (setBusMode m s) :=
  ⟨rfl, rfl, rfl, rfl, rfl, rfl, rfl, rfl, rfl⟩

theorem withTxb_sameCore (s : State) (x : Txb) : SameCore s (s.withTxb x) := ⟨rfl, rfl, rfl, rfl, rfl, rfl, rfl, rfl, rfl⟩

@[simp] theorem selAssert_cache (s : State) : (selAssert s).cache = s.cache := rfl
@[simp] theorem selAssert_txb (s : State) : (selAssert s).txb = s.txb := rfl
@[simp] theorem selAssert_cfg (s : State) : (selAssert s).cfg = s.cfg := rfl
@[simp] theorem selAssert_env (s : State) : (selAssert s).env = s.env := rfl
@[simp] theorem selAssert_bus (s : State) : (selAssert s).bus = ⟨true, s.bus.mode⟩ := rfl
@[simp] theorem selDeassert_cache (s : State) : (selDeassert s).cache = s.cache := rfl
@[simp] theorem selDeassert_txb (s : State) : (selDeassert s).txb = s.txb := rfl
@[simp] theorem selDeassert_cfg (s : State) : (selDeassert s).cfg = s.cfg := rfl
@[simp] theorem selDeassert_env (s : State) : (selDeassert s).env = s.env := rfl
@[simp] theorem selDeassert_bus (s : State) : (selDeassert s).bus = ⟨false, s.bus.mode⟩ := rfl
@[simp] theorem setBusMode_cache (m : BusMode) (s : State) : (setBusMode m s).cache = s.cache := rfl
@[simp] theorem setBusMode_txb (m : BusMode) (s : State) : (setBusMode m s).txb = s.txb := rfl
@[simp] theorem setBusMode_cfg (m : BusMode) (s : State) : (setBusMode m s).cfg = s.cfg := rfl
@[simp] theorem setBusMode_env (m : BusMode) (s : State) : (setBusMode m s).env = s.env := rfl
@[simp] theorem setBusMode_bus (m : BusMode) (s : State) : (setBusMode m s).bus = ⟨s.bus.selected, m⟩ := rfl

@[simp] theorem selAssert_trace (s : State) : (selAssert s).trace = s.trace ++ [.selAssert] := rfl
@[simp] theorem selDeassert_trace (s : State) : (selDeassert s).trace = s.trace ++ [.selDeassert] := rfl
@[simp] theorem setBusMode_trace (m : BusMode) (s : State) : (setBusMode m s).trace = s.trace ++ [.busMode m] := rfl

/-- An exchange: the core stays, and so do the cache, the buffer and the lines. -/
theorem xferWord_sameCore (w : Word) (s : State) : SameCore s (xferWord w s).2 :=
  ⟨rfl, rfl, rfl, rfl, rfl, rfl, rfl, rfl, rfl⟩

@[simp] theorem xferWord_cache (w : Word) (s : State) : (xferWord w s).2.cache = s.cache := rfl
@[simp] theorem xferWord_txb (w : Word) (s : State) : (xferWord w s).2.txb = s.txb := rfl
@[simp] theorem xferWord_bus (w : Word) (s : State) : (xferWord w s).2.bus = s.bus := rfl
@[simp] theorem xferWord_cfg (w : Word) (s : State) : (xferWord w s).2.cfg = s.cfg := rfl
@[simp] theorem xferWord_env (w : Word) (s : State) : (xferWord w s).2.env = afterAnswer s.env := rfl

/-- The word received is the next answer, and the exchange is recorded with it. -/
theorem xferWord_word (w : Word) (s : State) :
    (xferWord w s).1 = wordOf (nextAnswer s.env).1 (nextAnswer s.env).2 := rfl

theorem xferWord_trace (w : Word) (s : State) : (xferWord w s).2.trace =
    s.trace ++ [.xfer (hi8 w) (lo8 w) (nextAnswer s.env).1 (nextAnswer s.env).2] := rfl

theorem readBlanks_sameCore (n : Nat) (s : State) : SameCore s (readBlanks n s).2 := by
  induction n generalizing s with
  | zero => exact .refl s
  | succ n ih => exact (xferWord_sameCore _ s).trans (ih _)

@[simp] theorem readBlanks_cache (n : Nat) (s : State) : (readBlanks n s).2.cache = s.cache := by
  induction n generalizing s with
  | zero => rfl
  | succ n ih => exact (ih _).trans (xferWord_cache _ s)

@[simp] theorem readBlanks_txb (n : Nat) (s : State) : (readBlanks n s).2.txb = s.txb := by
  induction n generalizing s with
  | zero => rfl
  | succ n ih => exact (ih _).trans (xferWord_txb _ s)

@[simp] theorem readBlanks_bus (n : Nat) (s : State) : (readBlanks n s).2.bus = s.bus := by
  induction n generalizing s with
  | zero => rfl
  | succ n ih => exact (ih _).trans (xferWord_bus _ s)

@[simp] theorem readBlanks_length (n : Nat) (s : State) : (readBlanks n s).1.length = n := by
  induction n generalizing s with
  | zero => rfl
  | succ n ih => simp [readBlanks, ih]

/-- `wordOf` puts the bytes of a word together again (20_memory.md R60). -/
@[simp] theorem wordOf_bytes (w : Word) : wordOf (hi8 w) (lo8 w) = w := by
  apply BitVec.eq_of_getLsbD_eq
  intro i hi
  simp only [wordOf, hi8, lo8, BitVec.getLsbD_append, BitVec.getLsbD_extractLsb']
  by_cases h : i < 8
  · simp [h]
  · have h8 : i - 8 < 8 := by omega
    have hi' : 8 + (i - 8) = i := by omega
    simp [h, h8, hi']

theorem beginRead_sameCore (w : Word) (s : State) : SameCore s (beginRead w s) :=
  ((selAssert_sameCore s).trans (xferWord_sameCore w _)).trans (setBusMode_sameCore _ _)

theorem endRead_sameCore (s : State) : SameCore s (endRead s) :=
  (setBusMode_sameCore _ s).trans (selDeassert_sameCore _)

@[simp] theorem beginRead_cache (w : Word) (s : State) : (beginRead w s).cache = s.cache := by simp [beginRead]
@[simp] theorem beginRead_txb (w : Word) (s : State) : (beginRead w s).txb = s.txb := by simp [beginRead]
@[simp] theorem beginRead_cfg (w : Word) (s : State) : (beginRead w s).cfg = s.cfg := by simp [beginRead]
@[simp] theorem endRead_cache (s : State) : (endRead s).cache = s.cache := rfl
@[simp] theorem endRead_txb (s : State) : (endRead s).txb = s.txb := rfl
@[simp] theorem endRead_cfg (s : State) : (endRead s).cfg = s.cfg := rfl
@[simp] theorem endRead_env (s : State) : (endRead s).env = s.env := rfl
@[simp] theorem endRead_bus (s : State) : (endRead s).bus = ⟨false, .pushPull⟩ := rfl
@[simp] theorem endRead_trace (s : State) : (endRead s).trace = s.trace ++ [.busMode .pushPull] ++ [.selDeassert] := rfl

/-- The frame of a read transaction: only the transaction buffer, the trace and the sensor's answers move, and the lines
are idle at its end (20_memory.md R67). -/
theorem memRead_sameCore (reg : RegNum) (n : BitVec 4) (safe : Bool) (s : State) :
    SameCore s (memRead reg n safe s).2 :=
  (((beginRead_sameCore _ s).trans (readBlanks_sameCore _ _)).trans (xferWord_sameCore _ _)).trans
    ((endRead_sameCore _).trans (withTxb_sameCore _ _))

@[simp] theorem memRead_cache (reg : RegNum) (n : BitVec 4) (safe : Bool) (s : State) :
    (memRead reg n safe s).2.cache = s.cache := by
  simp [memRead]

@[simp] theorem memRead_bus (reg : RegNum) (n : BitVec 4) (safe : Bool) (s : State) :
    (memRead reg n safe s).2.bus = ⟨false, .pushPull⟩ := by
  simp [memRead]

@[simp] theorem memRead_length (reg : RegNum) (n : BitVec 4) (safe : Bool) (s : State) :
    (memRead reg n safe s).1.1.length = n.toNat := by
  simp [memRead]

theorem memRead_txb (reg : RegNum) (n : BitVec 4) (safe : Bool) (s : State) :
    (memRead reg n safe s).2.txb =
      s.txb.record (addrWord true safe reg n) n (memRead reg n safe s).1.1 (memRead reg n safe s).1.2 := by
  simp [memRead]

/-- The frame of a write transaction (20_memory.md R68). -/
theorem memWrite_sameCore (reg : RegNum) (v : Word) (s : State) : SameCore s (memWrite reg v s) :=
  (((selAssert_sameCore s).trans (xferWord_sameCore _ _)).trans (xferWord_sameCore _ _)).trans (selDeassert_sameCore _)

@[simp] theorem memWrite_cache (reg : RegNum) (v : Word) (s : State) : (memWrite reg v s).cache = s.cache := by simp [memWrite]
@[simp] theorem memWrite_txb (reg : RegNum) (v : Word) (s : State) : (memWrite reg v s).txb = s.txb := by simp [memWrite]
@[simp] theorem memWrite_bus (reg : RegNum) (v : Word) (s : State) : (memWrite reg v s).bus = ⟨false, s.bus.mode⟩ := by
  simp [memWrite]

/-- The frame of a safety reset (20_memory.md R69). -/
theorem safetyReset_sameCore (s : State) : SameCore s (safetyReset s) :=
  ((beginRead_sameCore _ s).trans (readBlanks_sameCore 2 _)).trans (endRead_sameCore _)

@[simp] theorem safetyReset_cache (s : State) : (safetyReset s).cache = s.cache := by simp [safetyReset]
@[simp] theorem safetyReset_txb (s : State) : (safetyReset s).txb = s.txb := by simp [safetyReset]
@[simp] theorem safetyReset_bus (s : State) : (safetyReset s).bus = ⟨false, .pushPull⟩ := by simp [safetyReset]

/-- The frame of a cache update: only the cache moves (42_register_protocol.md R155). -/
theorem cacheWord_eq (reg : RegNum) (w : Word) (s : State) :
    cacheWord reg w s = s.withCache (cacheWord reg w s).cache := by
  unfold cacheWord
  split <;> rfl

theorem cacheWord_cache_length (reg : RegNum) (w : Word) (s : State) :
    (cacheWord reg w s).cache.length = s.cache.length := by
  unfold cacheWord
  split <;> simp [State.setSlot]

theorem updateCache_eq (reg : RegNum) (d : List Word) (s : State) :
    updateCache reg d s = s.withCache (updateCache reg d s).cache := by
  induction d generalizing reg s with
  | nil => rfl
  | cons w ws ih =>
    have h := ih (reg + 1) (cacheWord reg w s)
    rw [updateCache, h]
    conv_lhs => arg 1; rw [cacheWord_eq reg w s]
    rfl

theorem updateCache_cache_length (reg : RegNum) (d : List Word) (s : State) :
    (updateCache reg d s).cache.length = s.cache.length := by
  induction d generalizing reg s with
  | nil => rfl
  | cons w ws ih => rw [updateCache, ih, cacheWord_cache_length]

theorem updateCache_sameCore (reg : RegNum) (d : List Word) (s : State) : SameCore s (updateCache reg d s) := by
  rw [updateCache_eq]
  exact ⟨rfl, rfl, rfl, rfl, rfl, rfl, rfl, rfl, rfl⟩

/-- The frame of a validation with its reset (42_register_protocol.md R154). -/
theorem validateAndReset_sameCore (s : State) : SameCore s (validateAndReset s).2 := by
  by_cases h : needsSafetyReset s.cfg (validate s.cfg s.txb) = true
  · simpa [validateAndReset, h] using safetyReset_sameCore s
  · simpa [validateAndReset, h] using SameCore.refl s

@[simp] theorem validateAndReset_kind (s : State) : (validateAndReset s).1 = validate s.cfg s.txb := rfl

/-- The state inside a read attempt after its transaction and cache update. -/
def readThenCache (reg : RegNum) (n : BitVec 4) (safe : Bool) (s : State) : State :=
  updateCache reg (memRead reg n safe s).1.1 (memRead reg n safe s).2

theorem readThenCache_sameCore (reg : RegNum) (n : BitVec 4) (safe : Bool) (s : State) :
    SameCore s (readThenCache reg n safe s) :=
  (memRead_sameCore reg n safe s).trans (updateCache_sameCore _ _ _)

/-- Everything a read attempt can do: it succeeds exactly where the section can be entered once more; then the words are
those of the transaction and the core is as before (42_register_protocol.md R150). -/
theorem readRegister_ok {reg : RegNum} {n : BitVec 4} {safe : Bool} {s t : State} {d : List Word} {k : Status}
    (h : readRegister reg n safe s = .ok ((d, k), t)) :
    s.csCount ≠ 255 ∧ SameCore s t ∧ d.length = n.toNat := by
  unfold readRegister at h
  obtain ⟨h1, u, h2, h3, rfl⟩ := inSection_ok_iff.mp h
  have hs := readThenCache_sameCore reg n safe (s.withCs (s.csCount + 1))
  cases safe with
  | false =>
    simp only [Bool.false_eq_true, if_false, Except.ok.injEq, Prod.mk.injEq] at h2
    obtain ⟨⟨rfl, -⟩, rfl⟩ := h2
    refine ⟨h1, ⟨hs.cfg, ?_, hs.est, hs.fm, hs.sch, hs.ma, hs.pending, hs.busy, hs.inputs⟩, memRead_length _ _ _ _⟩
    have hc := hs.csCount
    simp only [readThenCache, State.withCs_csCount] at hc ⊢
    rw [hc, succ_pred_depth]
  | true =>
    simp only [if_true, Except.ok.injEq, Prod.mk.injEq] at h2
    obtain ⟨⟨rfl, -⟩, rfl⟩ := h2
    have hv := hs.trans (validateAndReset_sameCore (readThenCache reg n true (s.withCs (s.csCount + 1))))
    refine ⟨h1, ⟨hv.cfg, ?_, hv.est, hv.fm, hv.sch, hv.ma, hv.pending, hv.busy, hv.inputs⟩, memRead_length _ _ _ _⟩
    have hc := hv.csCount
    simp only [readThenCache, State.withCs_csCount] at hc ⊢
    rw [hc, succ_pred_depth]

end Sys2Proof.Machine
end

