-- ==== Sys2Proof/Laws/Depth.lean ====
section
/-! SUPPORT. No operation but `csEnter` and `csExit` reads or writes the nesting depth: each one commutes with a write of it, so
the body of a command can be computed outside its section (40_critical_section.md R134: the pairs have no net effect). -/

namespace Sys2Proof.Machine

open Sys2Proof

/-! ### Setters commute with the depth -/

@[simp] theorem withCs_emit (s : State) (k : BitVec 8) (x : TraceItem) : (s.withCs k).emit x = (s.emit x).withCs k := rfl
@[simp] theorem withCs_respond (s : State) (k : BitVec 8) (st : Status) (d : Long) :
    (s.withCs k).respond st d = (s.respond st d).withCs k := rfl
@[simp] theorem withCs_withEst (s : State) (k : BitVec 8) (x : EstRegs) : (s.withCs k).withEst x = (s.withEst x).withCs k := rfl
@[simp] theorem withCs_withFm (s : State) (k : BitVec 8) (x : FaultRegs) : (s.withCs k).withFm x = (s.withFm x).withCs k := rfl
@[simp] theorem withCs_withSch (s : State) (k : BitVec 8) (x : SchedRegs) : (s.withCs k).withSch x = (s.withSch x).withCs k := rfl
@[simp] theorem withCs_withMa (s : State) (k : BitVec 8) (x : Bank Filter) : (s.withCs k).withMa x = (s.withMa x).withCs k := rfl
@[simp] theorem withCs_withCache (s : State) (k : BitVec 8) (x : List (Option Word)) :
    (s.withCs k).withCache x = (s.withCache x).withCs k := rfl
@[simp] theorem withCs_withTxb (s : State) (k : BitVec 8) (x : Txb) : (s.withCs k).withTxb x = (s.withTxb x).withCs k := rfl
@[simp] theorem withCs_withBus (s : State) (k : BitVec 8) (x : Bus) : (s.withCs k).withBus x = (s.withBus x).withCs k := rfl
@[simp] theorem withCs_withPending (s : State) (k : BitVec 8) (x : BitVec 4) :
    (s.withCs k).withPending x = (s.withPending x).withCs k := rfl
@[simp] theorem withCs_withBusy (s : State) (k : BitVec 8) (x : Option InFlight) :
    (s.withCs k).withBusy x = (s.withBusy x).withCs k := rfl
@[simp] theorem withCs_withEnv (s : State) (k : BitVec 8) (x : Env) : (s.withCs k).withEnv x = (s.withEnv x).withCs k := rfl

/-! ### The transport -/

@[simp] theorem selAssert_withCs (s : State) (k : BitVec 8) : selAssert (s.withCs k) = (selAssert s).withCs k := rfl
@[simp] theorem selDeassert_withCs (s : State) (k : BitVec 8) : selDeassert (s.withCs k) = (selDeassert s).withCs k := rfl
@[simp] theorem setBusMode_withCs (m : BusMode) (s : State) (k : BitVec 8) :
    setBusMode m (s.withCs k) = (setBusMode m s).withCs k := rfl
@[simp] theorem xferWord_withCs (w : Word) (s : State) (k : BitVec 8) :
    xferWord w (s.withCs k) = ((xferWord w s).1, (xferWord w s).2.withCs k) := rfl
@[simp] theorem readBlanks_withCs (n : Nat) (s : State) (k : BitVec 8) :
    readBlanks n (s.withCs k) = ((readBlanks n s).1, (readBlanks n s).2.withCs k) := by
  induction n generalizing s with
  | zero => rfl
  | succ n ih => simp [readBlanks, ih]
@[simp] theorem beginRead_withCs (w : Word) (s : State) (k : BitVec 8) : beginRead w (s.withCs k) = (beginRead w s).withCs k := by
  simp [beginRead]
@[simp] theorem endRead_withCs (s : State) (k : BitVec 8) : endRead (s.withCs k) = (endRead s).withCs k := by simp [endRead]
@[simp] theorem memRead_withCs (reg : RegNum) (n : BitVec 4) (safe : Bool) (s : State) (k : BitVec 8) :
    memRead reg n safe (s.withCs k) = ((memRead reg n safe s).1, (memRead reg n safe s).2.withCs k) := by
  simp [memRead]
@[simp] theorem memWrite_withCs (reg : RegNum) (v : Word) (s : State) (k : BitVec 8) :
    memWrite reg v (s.withCs k) = (memWrite reg v s).withCs k := by
  simp [memWrite]
@[simp] theorem safetyReset_withCs (s : State) (k : BitVec 8) : safetyReset (s.withCs k) = (safetyReset s).withCs k := by
  simp [safetyReset]
@[simp] theorem slot_withCs (s : State) (k : BitVec 8) (i : Byte) : (s.withCs k).slot i = s.slot i := rfl
@[simp] theorem setSlot_withCs (s : State) (k : BitVec 8) (i : Byte) (w : Word) :
    (s.withCs k).setSlot i w = (s.setSlot i w).withCs k := rfl
@[simp] theorem cacheWord_withCs (reg : RegNum) (w : Word) (s : State) (k : BitVec 8) :
    cacheWord reg w (s.withCs k) = (cacheWord reg w s).withCs k := by
  unfold cacheWord
  rw [State.withCs_cfg]
  split <;> rfl
@[simp] theorem updateCache_withCs (reg : RegNum) (d : List Word) (s : State) (k : BitVec 8) :
    updateCache reg d (s.withCs k) = (updateCache reg d s).withCs k := by
  induction d generalizing reg s with
  | nil => rfl
  | cons w ws ih => rw [updateCache, cacheWord_withCs, ih]; rfl
@[simp] theorem validateAndReset_withCs (s : State) (k : BitVec 8) :
    validateAndReset (s.withCs k) = ((validateAndReset s).1, (validateAndReset s).2.withCs k) := by
  by_cases h : needsSafetyReset s.cfg (validate s.cfg s.txb) = true
  · simp [validateAndReset, h]
  · simp [validateAndReset, h]

theorem ite_withCs (p : Prop) [Decidable p] (a b : State) (k : BitVec 8) :
    (if p then a else b).withCs k = if p then a.withCs k else b.withCs k := by
  split_ifs <;> rfl

/-! ### Filters, fault monitor, scheduler -/

@[simp] theorem maConfigure_withCs (ch : Chan) (cap : Nat) (s : State) (k : BitVec 8) :
    maConfigure ch cap (s.withCs k) = (maConfigure ch cap s).withCs k := rfl
@[simp] theorem maValue_withCs (ch : Chan) (s : State) (k : BitVec 8) : maValue ch (s.withCs k) = maValue ch s := rfl
@[simp] theorem maAdd_withCs (ch : Chan) (x : Fx) (s : State) (k : BitVec 8) :
    maAdd ch x (s.withCs k) = (maAdd ch x s).map (fun t => t.withCs k) := by
  by_cases h : (fxFits s.cfg x && fxFits s.cfg ((s.ma.get ch).add x).sum) = true
  · simp [maAdd, h, Except.map]
  · simp [maAdd, h, Except.map]
@[simp] theorem setMotorState_withCs (st : MotorState) (clr : Bool) (s : State) (k : BitVec 8) :
    setMotorState st clr (s.withCs k) = (setMotorState st clr s).withCs k := by
  by_cases h : s.fm.motorState ≠ st ∨ clr = true
  · simp [setMotorState, h]
  · simp [setMotorState, h]
@[simp] theorem setStallOut_withCs (b : Bool) (s : State) (k : BitVec 8) :
    setStallOut b (s.withCs k) = (setStallOut b s).withCs k := rfl
@[simp] theorem clearStall_withCs (s : State) (k : BitVec 8) : clearStall (s.withCs k) = (clearStall s).withCs k := rfl
@[simp] theorem backOff_withCs (now : U32) (s : State) (k : BitVec 8) : backOff now (s.withCs k) = (backOff now s).withCs k := rfl
@[simp] theorem otEval_withCs (t : Fx) (now : U32) (s : State) (k : BitVec 8) :
    otEval t now (s.withCs k) = (otEval t now s).withCs k := by
  simp [otEval, ite_withCs]
  rfl
@[simp] theorem stallEval_withCs (e : Int) (s : State) (k : BitVec 8) : stallEval e (s.withCs k) = (stallEval e s).withCs k := rfl
@[simp] theorem applySetState_withCs (st : MotorState) (clr : Bool) (s : State) (k : BitVec 8) :
    applySetState st clr (s.withCs k) = (applySetState st clr s).withCs k := by
  cases clr <;> simp [applySetState, ite_withCs]
@[simp] theorem stepError_withCs (s : State) (k : BitVec 8) : stepError (s.withCs k) = stepError s := rfl
@[simp] theorem issueStep_withCs (dir : Dir) (u : Bool) (s : State) (k : BitVec 8) :
    issueStep dir u (s.withCs k) = (issueStep dir u s).withCs k := rfl
@[simp] theorem disarmFine_withCs (s : State) (k : BitVec 8) : disarmFine (s.withCs k) = (disarmFine s).withCs k := rfl

theorem ok_map_withCs (a : State) (k : BitVec 8) :
    (Except.ok a : Except Fault State).map (fun t => t.withCs k) = .ok (a.withCs k) := rfl

theorem ite_map_withCs (p : Prop) [Decidable p] (a b : Except Fault State) (k : BitVec 8) :
    (if p then a else b).map (fun t => t.withCs k) = if p then a.map (fun t => t.withCs k) else b.map (fun t => t.withCs k) := by
  split_ifs <;> rfl

@[simp] theorem pidStep_withCs (e : Int) (s : State) (k : BitVec 8) :
    pidStep e (s.withCs k) = (pidStep e s).map (fun t => t.withCs k) := by
  simp only [pidStep, State.withCs_cfg, State.withCs_sch]
  split <;> rfl
@[simp] theorem correct_withCs (e : Int) (s : State) (k : BitVec 8) :
    correct e (s.withCs k) = (correct e s).map (fun t => t.withCs k) := by
  unfold correct
  rw [State.withCs_cfg]
  split
  · rfl
  · exact pidStep_withCs e s k
@[simp] theorem tickCorrection_withCs (s : State) (k : BitVec 8) :
    tickCorrection (s.withCs k) = (tickCorrection s).map (fun t => t.withCs k) := by
  simp only [tickCorrection, stepError_withCs, correct_withCs, disarmFine_withCs, clearStall_withCs, ite_map_withCs]
  cases correct (stepError s) s <;> rfl
@[simp] theorem tick_withCs (s : State) (k : BitVec 8) : tick (s.withCs k) = (tick s).map (fun t => t.withCs k) := by
  by_cases h : s.fm.motorState = .forcedEnabled <;> simp [tick, ite_map_withCs, ok_map_withCs, h]
@[simp] theorem schedFire_withCs (s : State) (k : BitVec 8) : schedFire (s.withCs k) = (schedFire s).withCs k := rfl

end Sys2Proof.Machine
end

