-- ==== Sys2Proof/Laws/Monitor.lean ====
section
/-! SUPPORT. What the shared operations of the fault monitor, the scheduler and the filters can do, said once: the registers
each one may move and the ones it leaves (44_fault_monitor.md R210, R211, R216; 45_correction_scheduler.md R231, R241). -/

namespace Sys2Proof.Machine

open Sys2Proof

/-- What fault monitor and scheduler operations leave alone. -/
structure SameOutside (s t : State) : Prop where
  cfg : t.cfg = s.cfg
  csCount : t.csCount = s.csCount
  est : t.est = s.est
  ma : t.ma = s.ma
  cache : t.cache = s.cache
  txb : t.txb = s.txb
  bus : t.bus = s.bus
  pending : t.pending = s.pending
  busy : t.busy = s.busy
  env : t.env = s.env

theorem SameOutside.refl (s : State) : SameOutside s s := ⟨rfl, rfl, rfl, rfl, rfl, rfl, rfl, rfl, rfl, rfl⟩

theorem SameOutside.trans {s t u : State} (h : SameOutside s t) (k : SameOutside t u) : SameOutside s u :=
  ⟨k.cfg.trans h.cfg, k.csCount.trans h.csCount, k.est.trans h.est, k.ma.trans h.ma, k.cache.trans h.cache,
    k.txb.trans h.txb, k.bus.trans h.bus, k.pending.trans h.pending, k.busy.trans h.busy, k.env.trans h.env⟩

/-- `SetMotorState` writes `motorState` alone among the registers. -/
@[simp] theorem setMotorState_fm (st : MotorState) (clr : Bool) (s : State) :
    (setMotorState st clr s).fm = { s.fm with motorState := st } := by
  unfold setMotorState
  split_ifs <;> rfl

@[simp] theorem setMotorState_sch (st : MotorState) (clr : Bool) (s : State) : (setMotorState st clr s).sch = s.sch := by
  unfold setMotorState
  split_ifs <;> rfl

theorem setMotorState_outside (st : MotorState) (clr : Bool) (s : State) : SameOutside s (setMotorState st clr s) := by
  unfold setMotorState
  split_ifs <;> exact ⟨rfl, rfl, rfl, rfl, rfl, rfl, rfl, rfl, rfl, rfl⟩

theorem clearStall_outside (s : State) : SameOutside s (clearStall s) := ⟨rfl, rfl, rfl, rfl, rfl, rfl, rfl, rfl, rfl, rfl⟩

theorem setStallOut_outside (b : Bool) (s : State) : SameOutside s (setStallOut b s) :=
  ⟨rfl, rfl, rfl, rfl, rfl, rfl, rfl, rfl, rfl, rfl⟩

theorem backOff_outside (now : U32) (s : State) : SameOutside s (backOff now s) :=
  ⟨rfl, rfl, rfl, rfl, rfl, rfl, rfl, rfl, rfl, rfl⟩

/-- `OtEval` leaves the scheduler alone. -/
@[simp] theorem otEval_sch (t : Fx) (now : U32) (s : State) : (otEval t now s).sch = s.sch := by
  unfold otEval
  split_ifs <;> first | rfl | exact setMotorState_sch _ _ s

theorem otEval_outside (t : Fx) (now : U32) (s : State) : SameOutside s (otEval t now s) := by
  unfold otEval
  split_ifs <;> first | exact .refl s | exact setMotorState_outside _ _ s | exact backOff_outside now s

theorem stallEval_outside (e : Int) (s : State) : SameOutside s (stallEval e s) :=
  ⟨rfl, rfl, rfl, rfl, rfl, rfl, rfl, rfl, rfl, rfl⟩

@[simp] theorem stallEval_sch (e : Int) (s : State) : (stallEval e s).sch = s.sch := rfl
@[simp] theorem stallEval_trace (e : Int) (s : State) : (stallEval e s).trace = s.trace := rfl
@[simp] theorem clearStall_sch (s : State) : (clearStall s).sch = s.sch := rfl
@[simp] theorem setStallOut_sch (b : Bool) (s : State) : (setStallOut b s).sch = s.sch := rfl

theorem applySetState_outside (st : MotorState) (clr : Bool) (s : State) : SameOutside s (applySetState st clr s) := by
  unfold applySetState
  split_ifs
  · exact .refl s
  · exact (clearStall_outside s).trans (setMotorState_outside _ _ _)
  · exact setMotorState_outside _ _ _

/-- An issued step moves the two positions and nothing else among the registers. -/
@[simp] theorem issueStep_fm (dir : Dir) (u : Bool) (s : State) : (issueStep dir u s).fm = s.fm := rfl
@[simp] theorem issueStep_trace (dir : Dir) (u : Bool) (s : State) :
    (issueStep dir u s).trace = s.trace ++ [.step dir false u] := rfl

theorem issueStep_outside (dir : Dir) (u : Bool) (s : State) : SameOutside s (issueStep dir u s) :=
  ⟨rfl, rfl, rfl, rfl, rfl, rfl, rfl, rfl, rfl, rfl⟩

/-- Everything `PidStep` can do: the output fits, and only the PID memory and the fine timer have moved (45_correction_scheduler.md
R241). -/
theorem pidStep_ok_iff {e : Int} {s t : State} :
    pidStep e s = .ok t ↔
      fxFits s.cfg (pidLaw s.cfg e s.sch.pidInteg.toInt s.sch.pidPrevErr.toInt).1 = true ∧
        t = s.withSch (armFine s.cfg (pidLaw s.cfg e s.sch.pidInteg.toInt s.sch.pidPrevErr.toInt).1
          { s.sch with
            pidInteg := storeInteg (pidLaw s.cfg e s.sch.pidInteg.toInt s.sch.pidPrevErr.toInt).2.1
            pidPrevErr := (pidLaw s.cfg e s.sch.pidInteg.toInt s.sch.pidPrevErr.toInt).2.2 }) := by
  simp only [pidStep, fxCheck]
  by_cases h : fxFits s.cfg (pidLaw s.cfg e s.sch.pidInteg.toInt s.sch.pidPrevErr.toInt).1 = true
  · simp [h, eq_comm]
  · simp [h]

theorem pidStep_outside {e : Int} {s t : State} (h : pidStep e s = .ok t) :
    SameOutside s t ∧ t.fm = s.fm ∧ t.trace = s.trace := by
  obtain ⟨-, rfl⟩ := pidStep_ok_iff.mp h
  exact ⟨⟨rfl, rfl, rfl, rfl, rfl, rfl, rfl, rfl, rfl, rfl⟩, rfl, rfl⟩

/-- The correction of an error, by policy, leaves the fault monitor alone. -/
theorem correct_outside {e : Int} {s t : State} (h : correct e s = .ok t) : SameOutside s t ∧ t.fm = s.fm := by
  unfold correct at h
  split at h
  · cases h; exact ⟨issueStep_outside _ _ s, rfl⟩
  · exact ⟨(pidStep_outside h).1, (pidStep_outside h).2.1⟩

theorem disarmFine_outside (s : State) : SameOutside s (disarmFine s) :=
  ⟨rfl, rfl, rfl, rfl, rfl, rfl, rfl, rfl, rfl, rfl⟩

theorem tickCorrection_outside {s t : State} (h : tickCorrection s = .ok t) : SameOutside s t := by
  unfold tickCorrection at h
  dsimp only at h
  split_ifs at h
  · cases h; exact (disarmFine_outside s).trans (clearStall_outside _)
  · cases hc : correct (stepError s) s with
    | error f => rw [hc] at h; cases h
    | ok u => rw [hc] at h; cases h; exact (correct_outside hc).1.trans (stallEval_outside _ u)

/-- A tick touches the fault monitor and the scheduler alone (43_motion_estimator.md R195). -/
theorem tick_outside {s t : State} (h : tick s = .ok t) : SameOutside s t := by
  unfold tick at h
  split_ifs at h
  · cases h; exact .refl s
  · cases h; exact .refl s
  · cases h; exact (setMotorState_outside _ _ s).trans (setStallOut_outside _ _)
  · exact tickCorrection_outside h
  · exact (setMotorState_outside _ _ s).trans (tickCorrection_outside h)

/-- A stored integrator is the integrator where it fits 32 bits, so it stays inside the limit (10_state.md R25, R34). -/
theorem storeInteg_bounds {x : Int} {l : Nat} (h : -(l : Int) ≤ x ∧ x ≤ l) :
    -(l : Int) ≤ (storeInteg x).toInt ∧ (storeInteg x).toInt ≤ l := by
  unfold storeInteg
  split
  · rename_i hx
    have hs : (BitVec.ofInt 32 x).toInt = x := by
      rw [BitVec.toInt_ofInt]
      exact Int.bmod_eq_of_le (by omega) (by omega)
    rw [hs]; exact h
  · have h1 := BitVec.toInt_lt (x := Config.wideIntegrator x)
    have h2 := BitVec.le_toInt (x := Config.wideIntegrator x)
    omega

theorem schedFire_outside (s : State) : SameOutside s (schedFire s) :=
  ⟨rfl, rfl, rfl, rfl, rfl, rfl, rfl, rfl, rfl, rfl⟩

/-- A truncated value lies between its bounds (00_scope.md R11). -/
theorem clamp_bounds {x lo hi : Int} (h : lo ≤ hi) : lo ≤ clamp x lo hi ∧ clamp x lo hi ≤ hi := by
  unfold clamp
  omega

/-- Everything `MaAdd` can do: the sample and the sum fit, and the channel holds the sample (41_moving_average.md R141). -/
theorem maAdd_ok_iff {ch : Chan} {x : Fx} {s t : State} :
    maAdd ch x s = .ok t ↔ fxFits s.cfg x = true ∧ fxFits s.cfg ((s.ma.get ch).add x).sum = true ∧
      t = s.withMa (s.ma.set ch ((s.ma.get ch).add x)) := by
  unfold maAdd
  dsimp only
  split
  · rename_i h
    simp only [Bool.and_eq_true] at h
    rw [Except.ok.injEq]
    exact ⟨fun q => ⟨h.1, h.2, q.symm⟩, fun q => q.2.2.symm⟩
  · rename_i h
    simp only [Bool.and_eq_true] at h
    simp only [reduceCtorEq, false_iff]
    exact fun q => h ⟨q.1, q.2.1⟩

/-- A sample never changes the capacity, and never lets the fill pass it (41_moving_average.md R141). -/
@[simp] theorem Filter.add_cap (m : Filter) (x : Fx) : (m.add x).cap = m.cap := by
  unfold Filter.add
  split <;> rfl

theorem Filter.add_fill (m : Filter) (x : Fx) : (m.add x).fill = if m.fill = m.cap then m.fill else m.fill + 1 := by
  unfold Filter.add
  split <;> rfl

@[simp] theorem Filter.add_length (m : Filter) (x : Fx) : (m.add x).buf.length = m.buf.length := by
  unfold Filter.add
  split <;> simp

theorem Filter.add_head (m : Filter) (x : Fx) : (m.add x).head = (m.head + 1) % m.cap := by
  unfold Filter.add
  split <;> rfl

end Sys2Proof.Machine
end

