-- ==== Sys2Proof/Laws/PerInstr.lean ====
section
/-! SUPPORT. The family EncodingFits, one lemma for each instruction: the encoding of an instruction is a word of a known opcode
with every must-be-zero bit zero (30_encoding.md R91), or the one-hot vector of an event (R94). -/

namespace Sys2Proof.Laws

open Sys2Proof

/-- The word uses only the bits its opcode gives it; an event is one line of `ev[3:0]`. -/
def Wire.fits (i : Instr) : Wire → Prop
  | .command cw => ∃ z, opcodeRow (cwOp cw) = some z ∧ z.clear cw = true
  | .event v => ∃ k : Fin 4, v = 1#4 <<< k.val ∧ decodeEvent v = some i ∧ eventOf k = i

/-- The encoding of an instruction fits the opcode map (R91, R94). -/
def EncodingFits.Statement (i : Instr) : Prop := Wire.fits i (encode i)

/-- A packed word fits where its three fields keep clear of the row's must-be-zero masks. -/
theorem fits_of_masks {i : Instr} {op sel : Byte} {a : Word} {b : U32} (z : ZeroMask) (h : opcodeRow op = some z)
    (hs : sel &&& z.sel = 0) (ha : a &&& z.a = 0) (hb : b &&& z.b = 0) : Wire.fits i (.command (packCw op sel a b)) :=
  ⟨z, by rw [cwOp_packCw, h], by simp only [ZeroMask.clear, cwSel_packCw, cwA_packCw, cwB_packCw, hs, ha, hb]; rfl⟩

theorem EncodingFits.csenter : EncodingFits.Statement .csenter :=
  fits_of_masks _ rfl rfl rfl rfl

theorem EncodingFits.csexit : EncodingFits.Statement .csexit :=
  fits_of_masks _ rfl rfl rfl rfl

theorem EncodingFits.macfg (ch : Chan) (cap : Word) : EncodingFits.Statement (.macfg ch cap) :=
  fits_of_masks _ rfl (selCode_high _) BitVec.and_zero rfl

theorem EncodingFits.maadd (ch : Chan) (sample : U32) : EncodingFits.Statement (.maadd ch sample) :=
  fits_of_masks _ rfl (selCode_high _) rfl BitVec.and_zero

theorem EncodingFits.maval (ch : Chan) : EncodingFits.Statement (.maval ch) :=
  fits_of_masks _ rfl (selCode_high _) rfl rfl

theorem EncodingFits.rdreg (safe : Bool) (reg : RegNum) : EncodingFits.Statement (.rdreg safe reg) :=
  fits_of_masks _ rfl (selFlag_high _) (fieldReg_high _) rfl

theorem EncodingFits.rdburst (safe : Bool) (reg : RegNum) (count : BitVec 4) : EncodingFits.Statement (.rdburst safe reg count) :=
  fits_of_masks _ rfl (selFlag_high _) (fieldReg_high _) (count_high _)

theorem EncodingFits.wrreg (reg : RegNum) (value : Word) : EncodingFits.Statement (.wrreg reg value) :=
  fits_of_masks _ rfl rfl (fieldReg_high _) (fieldWord_high _)

theorem EncodingFits.getbf (idx : Byte) : EncodingFits.Statement (.getbf idx) :=
  fits_of_masks _ rfl BitVec.and_zero rfl rfl

theorem EncodingFits.setbf (idx : Byte) (value : Word) : EncodingFits.Statement (.setbf idx value) :=
  fits_of_masks _ rfl BitVec.and_zero rfl (fieldWord_high _)

theorem EncodingFits.valsafe : EncodingFits.Statement .valsafe :=
  fits_of_masks _ rfl rfl rfl rfl

theorem EncodingFits.sreset : EncodingFits.Statement .sreset :=
  fits_of_masks _ rfl rfl rfl rfl

theorem EncodingFits.txbld (elem : TxbElem) (value : Word) : EncodingFits.Statement (.txbld elem value) :=
  fits_of_masks _ rfl BitVec.and_zero rfl (fieldWord_high _)

theorem EncodingFits.txbrd (elem : TxbElem) : EncodingFits.Statement (.txbrd elem) :=
  fits_of_masks _ rfl BitVec.and_zero rfl rfl

theorem EncodingFits.angle (useAverage : Bool) : EncodingFits.Statement (.angle useAverage) :=
  fits_of_masks _ rfl (selFlag_high _) rfl rfl

theorem EncodingFits.arev : EncodingFits.Statement .arev :=
  fits_of_masks _ rfl rfl rfl rfl

theorem EncodingFits.aangle : EncodingFits.Statement .aangle :=
  fits_of_masks _ rfl rfl rfl rfl

theorem EncodingFits.speed : EncodingFits.Statement .speed :=
  fits_of_masks _ rfl rfl rfl rfl

theorem EncodingFits.accel : EncodingFits.Statement .accel :=
  fits_of_masks _ rfl rfl rfl rfl

theorem EncodingFits.temp : EncodingFits.Statement .temp :=
  fits_of_masks _ rfl rfl rfl rfl

theorem EncodingFits.zero : EncodingFits.Statement .zero :=
  fits_of_masks _ rfl rfl rfl rfl

theorem EncodingFits.setofs (offset : U32) : EncodingFits.Statement (.setofs offset) :=
  fits_of_masks _ rfl rfl rfl BitVec.and_zero

theorem EncodingFits.setstate (state : MotorState) (clearErrors : Bool) : EncodingFits.Statement (.setstate state clearErrors) :=
  fits_of_masks _ rfl (stateSel_high _ _) rfl rfl

theorem EncodingFits.getstate : EncodingFits.Statement .getstate :=
  fits_of_masks _ rfl rfl rfl rfl

theorem EncodingFits.setcur (mA : Word) : EncodingFits.Statement (.setcur mA) :=
  fits_of_masks _ rfl rfl BitVec.and_zero rfl

theorem EncodingFits.getcur : EncodingFits.Statement .getcur :=
  fits_of_masks _ rfl rfl rfl rfl

theorem EncodingFits.sched (dir : Dir) (rate : Word) (count : U32) : EncodingFits.Statement (.sched dir rate count) :=
  fits_of_masks _ rfl (selFlag_high _) BitVec.and_zero BitVec.and_zero

theorem EncodingFits.setdes (pos : U32) : EncodingFits.Statement (.setdes pos) :=
  fits_of_masks _ rfl rfl rfl BitVec.and_zero

theorem EncodingFits.setpos (pos : U32) : EncodingFits.Statement (.setpos pos) :=
  fits_of_masks _ rfl rfl rfl BitVec.and_zero

theorem EncodingFits.geterr : EncodingFits.Statement .geterr :=
  fits_of_masks _ rfl rfl rfl rfl

theorem EncodingFits.getpos : EncodingFits.Statement .getpos :=
  fits_of_masks _ rfl rfl rfl rfl

theorem EncodingFits.cten (enable : Bool) : EncodingFits.Statement (.cten enable) :=
  fits_of_masks _ rfl (selFlag_high _) rfl rfl

theorem EncodingFits.evStepedge : EncodingFits.Statement .evStepedge := ⟨3, rfl, rfl, rfl⟩

theorem EncodingFits.evSched : EncodingFits.Statement .evSched := ⟨2, rfl, rfl, rfl⟩

theorem EncodingFits.evTick : EncodingFits.Statement .evTick := ⟨1, rfl, rfl, rfl⟩

theorem EncodingFits.evFine : EncodingFits.Statement .evFine := ⟨0, rfl, rfl, rfl⟩

end Sys2Proof.Laws
end

