-- ==== Sys2Proof/Tests/Slice0.lean ====
section
/-! SUPPORT. The model's own tests. Every expected value is written out from the spec: the words from the encodings of
30_encoding.md R91 and the examples of each command's rule, the results from 95_test_vectors.md (the vector is named). -/

set_option Elab.async false

namespace Sys2Proof.Tests

open Sys2Proof Sys2Proof.Machine

/-! ### Well-formedness: each check refuses an ill-formed term (30_encoding.md R92) -/

theorem test_wf_capacity_zero : (Instr.macfg .angle 0).wf Config.default = false := by decide
theorem test_wf_capacity_too_big : (Instr.macfg .angle 257).wf Config.default = false := by decide
theorem test_wf_capacity_largest : (Instr.macfg .angle 256).wf Config.default = true := by decide
theorem test_wf_burst_zero : (Instr.rdburst true 3 0).wf Config.default = false := by decide
theorem test_wf_getbf_index : (Instr.getbf 7).wf Config.default = false := by decide
theorem test_wf_setbf_index : (Instr.setbf 7 0).wf Config.default = false := by decide
theorem test_wf_txbld_count : (Instr.txbld .count 16).wf Config.default = false := by decide
theorem test_wf_sched_rate : (Instr.sched .plus 0 5).wf Config.default = false := by decide
theorem test_wf_sched_absent :
    (Instr.sched .plus 100 5).wf { Config.default with schedPresent := false } = false := by decide
theorem test_wf_descriptor_mask_offset :
    (Descriptor.mk .read 2 0x7FFE 0 0 2).wf Config.default = false := by decide
theorem test_wf_default_config : Config.default.wf = true := by decide +kernel
theorem test_wf_config_divisor : (Cfg.wf { Config.default with tempDiv := 0 }) = false := by decide

/-! ### Decoding: one word for each constructor, written out from R91 -/

/-- The command a word decodes to under the default configuration. -/
def dec (cw : Long) : Decoded := decode Config.default cw

theorem test_decode_csenter : dec 0x0100000000000000 = .instr (.csenter) := by decide
theorem test_decode_csexit : dec 0x0200000000000000 = .instr (.csexit) := by decide
theorem test_decode_macfg : dec 0x1001000400000000 = .instr (.macfg .absAngle 4) := by decide
theorem test_decode_maadd : dec 0x11010000FFFE8000 = .instr (.maadd .absAngle 0xFFFE8000) := by decide
theorem test_decode_maval : dec 0x1204000000000000 = .instr (.maval .temp) := by decide
theorem test_decode_rdreg : dec 0x2001000200000000 = .instr (.rdreg true 2) := by decide
theorem test_decode_rdburst : dec 0x210003FF00000002 = .instr (.rdburst false 0x3FF 2) := by decide
theorem test_decode_wrreg : dec 0x2200000600001234 = .instr (.wrreg 6 0x1234) := by decide
theorem test_decode_getbf : dec 0x2304000000000000 = .instr (.getbf 4) := by decide
theorem test_decode_setbf : dec 0x2404000000000002 = .instr (.setbf 4 2) := by decide
theorem test_decode_valsafe : dec 0x2500000000000000 = .instr (.valsafe) := by decide
theorem test_decode_sreset : dec 0x2600000000000000 = .instr (.sreset) := by decide
theorem test_decode_txbld : dec 0x27100000000040AD = .instr (.txbld .safety 0x40AD) := by decide
theorem test_decode_txbrd : dec 0x2801000000000000 = .instr (.txbrd (.data 0)) := by decide
theorem test_decode_angle : dec 0x3001000000000000 = .instr (.angle true) := by decide
theorem test_decode_arev : dec 0x3100000000000000 = .instr (.arev) := by decide
theorem test_decode_aangle : dec 0x3200000000000000 = .instr (.aangle) := by decide
theorem test_decode_speed : dec 0x3300000000000000 = .instr (.speed) := by decide
theorem test_decode_accel : dec 0x3400000000000000 = .instr (.accel) := by decide
theorem test_decode_temp : dec 0x3500000000000000 = .instr (.temp) := by decide
theorem test_decode_zero : dec 0x3600000000000000 = .instr (.zero) := by decide
theorem test_decode_setofs : dec 0x3700000000018000 = .instr (.setofs 0x18000) := by decide
theorem test_decode_setstate : dec 0x4081000000000000 = .instr (.setstate .disabled true) := by decide
theorem test_decode_getstate : dec 0x4100000000000000 = .instr (.getstate) := by decide
theorem test_decode_setcur : dec 0x420003E800000000 = .instr (.setcur 1000) := by decide
theorem test_decode_getcur : dec 0x4300000000000000 = .instr (.getcur) := by decide
theorem test_decode_sched : dec 0x5001006400000005 = .instr (.sched .minus 100 5) := by decide
theorem test_decode_setdes : dec 0x51000000FFFFFFFD = .instr (.setdes 0xFFFFFFFD) := by decide
theorem test_decode_setpos : dec 0x5200000000000032 = .instr (.setpos 50) := by decide
theorem test_decode_geterr : dec 0x5300000000000000 = .instr (.geterr) := by decide
theorem test_decode_getpos : dec 0x5400000000000000 = .instr (.getpos) := by decide
theorem test_decode_cten : dec 0x5501000000000000 = .instr (.cten true) := by decide
theorem test_decode_events : [0x8#4, 0x4#4, 0x2#4, 0x1#4].map decodeEvent =
    [some .evStepedge, some .evSched, some .evTick, some .evFine] := by decide
/-- 95_test_vectors.md section 9. -/
theorem test_decode_illegal_commands : [0x0000000000000000#64, 0x0300000000000000#64, 0x2900000000000000#64,
    0xFF00000000000000#64, 0x3800000000000000#64].map dec = List.replicate 5 .illegalCommand := by decide
/-- 95_test_vectors.md sections 4 to 9: M8 to M10, M12, RP14 to RP16, RP23, RP34, RP35, ME26, FM8, FM9, SC23, refusals. -/
theorem test_decode_illegal_operands : [0x0100000100000000#64, 0x4101000000000000#64, 0x4200000000000001#64,
    0x2200000600011234#64, 0x2400000000010000#64, 0x1005000400000000#64, 0x1001000000000000#64, 0x1001010100000000#64,
    0x1101000100010000#64, 0x2101000300000000#64, 0x2101000300000014#64, 0x2001040000000000#64, 0x2307000000000000#64,
    0x2711000000000010#64, 0x2712000000000000#64, 0x3002000000000000#64, 0x4005000000000000#64, 0x4008000000000000#64,
    0x5000000000000005#64, 0x5300000000000001#64, 0x5502000000000000#64].map dec =
      List.replicate 21 .illegalOperand := by decide
/-- SC24 and section 9: the opcode checks come first. -/
theorem test_decode_sched_absent : [0x5000006400000005#64, 0x5000000000000005#64].map
    (decode { Config.default with schedPresent := false }) = List.replicate 2 .illegalCommand := by decide
/-- The must-be-zero masks of spec/opcode_table.json, in its order, against `opcodeRow`. -/
theorem test_zero_masks : [(0x01#8, 0x00FFFFFFFFFFFFFF#64),
    (0x02#8, 0x00FFFFFFFFFFFFFF#64),
    (0x10#8, 0x00F80000FFFFFFFF#64),
    (0x11#8, 0x00F8FFFF00000000#64),
    (0x12#8, 0x00F8FFFFFFFFFFFF#64),
    (0x20#8, 0x00FEFC00FFFFFFFF#64),
    (0x21#8, 0x00FEFC00FFFFFFF0#64),
    (0x22#8, 0x00FFFC00FFFF0000#64),
    (0x23#8, 0x0000FFFFFFFFFFFF#64),
    (0x24#8, 0x0000FFFFFFFF0000#64),
    (0x25#8, 0x00FFFFFFFFFFFFFF#64),
    (0x26#8, 0x00FFFFFFFFFFFFFF#64),
    (0x27#8, 0x0000FFFFFFFF0000#64),
    (0x28#8, 0x0000FFFFFFFFFFFF#64),
    (0x30#8, 0x00FEFFFFFFFFFFFF#64),
    (0x31#8, 0x00FFFFFFFFFFFFFF#64),
    (0x32#8, 0x00FFFFFFFFFFFFFF#64),
    (0x33#8, 0x00FFFFFFFFFFFFFF#64),
    (0x34#8, 0x00FFFFFFFFFFFFFF#64),
    (0x35#8, 0x00FFFFFFFFFFFFFF#64),
    (0x36#8, 0x00FFFFFFFFFFFFFF#64),
    (0x37#8, 0x00FFFFFF00000000#64),
    (0x40#8, 0x0078FFFFFFFFFFFF#64),
    (0x41#8, 0x00FFFFFFFFFFFFFF#64),
    (0x42#8, 0x00FF0000FFFFFFFF#64),
    (0x43#8, 0x00FFFFFFFFFFFFFF#64),
    (0x50#8, 0x00FE000000000000#64),
    (0x51#8, 0x00FFFFFF00000000#64),
    (0x52#8, 0x00FFFFFF00000000#64),
    (0x53#8, 0x00FFFFFFFFFFFFFF#64),
    (0x54#8, 0x00FFFFFFFFFFFFFF#64),
    (0x55#8, 0x00FEFFFFFFFFFFFF#64)].all
      (fun p => (opcodeRow p.1).map (fun z => 0#8 ++ z.sel ++ z.a ++ z.b) == some p.2) = true := by decide
/-- The packed words of R104. -/
theorem test_descriptor_words : Config.defaultFields.map Descriptor.pack = [0x0013FFF800000100, 0x001BFFF800000180,
    0x00200FF800000200, 0x00281FF800000280, 0x4036000700000300, 0x2030078200000300, 0xA030007800000300] := by decide
theorem test_table_word : decodeTableWord 64 0x2001000200000000 = some (.rdreg true 2) := by decide
theorem test_table_event : decodeTableWord 8 0x2 = some .evTick := by decide

/-! ### Operations -/

/-- Section 5.1, the check value of R151. -/
theorem test_checksum_digits : checksum Config.default [0x31, 0x32, 0x33, 0x34, 0x35, 0x36, 0x37, 0x38, 0x39] = 0x4B := by
  decide +kernel
theorem test_checksum_burst :
    checksum Config.default [0xC0, 0x34, 0x00, 0x10, 0x00, 0x01, 0x00, 0x64, 0x40, 0x00] = 0xF4 := by decide +kernel
/-- Section 5.2. -/
theorem test_addr_words : [addrWord true true 2 1, addrWord true false 2 1, addrWord true true 3 4, addrWord true false 1023 2,
    addrWord false false 6 1, addrWord false false 1023 1] = [0xC021, 0x8021, 0xC034, 0xBFF2, 0x0061, 0x3FF1] := by decide +kernel
/-- Section 6.1, revolution. -/
theorem test_raw_rev : [0x0000#16, 0x00FF#16, 0x0100#16, 0x01FE#16, 0x01FF#16, 0xFE00#16, 0xFFFF#16].map (rawRev Config.default) =
    [0, 255, -256, -2, -1, 0, -1] := by decide +kernel
/-- Section 6.1, temperature. -/
theorem test_temp_decode : [0x200#16, 0x3F6#16, 0x000#16, 0x064#16, 0x1FF#16, 0xFC46#16].map (tempDecode Config.default) =
    [-8498901, 3352344, 3588425, 5949231, 15652144, 5240989] := by decide +kernel
/-- R240. -/
theorem test_pid_law : textbookLaw Config.default 5 0 0 = (3440640, 5, 5) := by decide +kernel

/-! ### Runs of one instruction. A sensor answer is given as a word. -/

/-- The reset state with sensor answers, as words. -/
def ask (ws : List Word) (s : State) : State := s.withEnv { s.env with answers := ws.map (fun w => (hi8 w, lo8 w)) }

/-- The last response of an outcome. -/
def reply (o : Host.Outcome State Fault Refusal) : Option (Status × Long) :=
  match o with
  | .next t =>
    match t.trace.getLast? with
    | some (.response k d) => some (k, d)
    | _ => none
  | _ => none

/-- The fault of an outcome. -/
def faultOf (o : Host.Outcome State Fault Refusal) : Option Fault :=
  match o with
  | .fault f => some f
  | _ => none

/-- A part of the next state of an outcome. -/
def part {α : Type} (f : State → α) (o : Host.Outcome State Fault Refusal) : Option α :=
  match o with
  | .next t => some (f t)
  | _ => none

/-- Two instructions in order, the first at its own answers. -/
def andThen (o : Host.Outcome State Fault Refusal) (k : State → Host.Outcome State Fault Refusal) :
    Host.Outcome State Fault Refusal :=
  match o with
  | .next t => k t
  | o => o

/-- CS1. -/
theorem test_csenter : reply (exec .csenter .reset) = some (.ok, 1) := by decide +kernel
/-- CS7. -/
theorem test_csenter_full : faultOf (exec .csenter (State.reset.withCs 255)) = some .csOverflow := by decide +kernel
/-- CS3. -/
theorem test_csexit : reply (exec .csexit (State.reset.withCs 2)) = some (.ok, 1) := by decide +kernel
/-- CS6. -/
theorem test_csexit_unmatched : faultOf (exec .csexit .reset) = some .csUnderflow := by decide +kernel
/-- M7. -/
theorem test_macfg : part (fun t => t.ma.absAngle) (exec (.macfg .absAngle 2)
    (State.reset.withMa { State.reset.ma with absAngle := ⟨4, 1, 4, 917504, [327680, 131072, 196608, 262144]⟩ })) =
    some ⟨2, 0, 0, 0, [0, 0]⟩ := by decide +kernel
/-- M1, the last line. -/
theorem test_maadd_evicts : part (fun t => t.ma.absAngle) (exec (.maadd .absAngle 0x50000)
    (State.reset.withMa { State.reset.ma with absAngle := ⟨4, 0, 4, 655360, [65536, 131072, 196608, 262144]⟩ })) =
    some ⟨4, 1, 4, 917504, [327680, 131072, 196608, 262144]⟩ := by decide +kernel
/-- M5: toward zero. -/
theorem test_maval_negative : reply (exec (.maval .speed)
    (State.reset.withMa { State.reset.ma with speed := ⟨2, 0, 2, -3, [-1, -2]⟩ })) =
    some (.ok, 0xFFFFFFFFFFFFFFFF) := by decide +kernel
/-- M2. -/
theorem test_maval_empty : reply (exec (.maval .speed) .reset) = some (.ok, 0) := by decide +kernel
/-- RP1: response and trace. -/
theorem test_rdreg_trace : part (fun t => t.trace) (exec (.rdreg true 2) (ask [0, 0x4000, 0x00AD] .reset)) =
    some [.selAssert, .xfer 0xC0 0x21 0 0, .busMode .openDrain, .xfer 0xFF 0xFF 0x40 0x00, .xfer 0xFF 0xFF 0x00 0xAD,
      .busMode .pushPull, .selDeassert, .response .ok 0x4000] := by decide +kernel
/-- RP6: the first flag in priority wins. -/
theorem test_rdreg_system_error : reply (exec (.rdreg true 2) (ask [0, 0x4000, 0x7000] .reset)) =
    some (.systemError, 0x4000) := by decide +kernel
/-- RP11. -/
theorem test_rdburst : reply (exec (.rdburst true 3 4) (ask [0, 0x0010, 0x0001, 0x0064, 0x4000, 0x00F4] .reset)) =
    some (.ok, 0x4000006400010010) := by decide +kernel
/-- RP13: the register number wraps. -/
theorem test_rdburst_wraps : part (fun t => (t.slot 0, t.txb.cmd))
    (exec (.rdburst false 0x3FF 2) (ask [0, 0xAAAA, 0x5555, 0x1234] .reset)) = some (some 0x5555, 0xBFF2) := by decide +kernel
/-- RP17. -/
theorem test_wrreg : part (fun t => t.trace) (exec (.wrreg 6 0x1234) (ask [0, 0] .reset)) =
    some [.selAssert, .xfer 0x00 0x61 0 0, .xfer 0x12 0x34 0 0, .selDeassert, .response .ok 0] := by decide +kernel
/-- RP19: the value is extracted with a failing status. -/
theorem test_getbf_crc : reply (exec (.getbf 4) (ask [0, 0x8000, 0x00EF] .reset)) = some (.crcMismatch, 2) := by decide +kernel
/-- RP21. -/
theorem test_getbf_write_only : part (fun t => t.trace) (exec (.getbf 5) .reset) = some [.response .fieldNotReadable 0] := by
  decide +kernel
/-- RP25. -/
theorem test_setbf_drops_bits : reply (exec (.setbf 4 7) (ask [0, 0] (State.reset.setSlot 6 0x1234))) =
    some (.ok, 0xD234) := by decide +kernel
/-- RP29. -/
theorem test_setbf_unread : faultOf (exec (.setbf 4 2) .reset) = some .cacheSlotUnread := by decide +kernel
/-- RP32. -/
theorem test_valsafe_mismatch : reply (exec .valsafe (State.reset.withTxb ⟨0xC021, 1, 0x4000 :: List.replicate 14 0, 0x00AC⟩)) =
    some (.crcMismatch, 0xAD) := by decide +kernel
/-- RP30. -/
theorem test_sreset : part (fun t => t.trace) (exec .sreset (ask [1, 2, 3] .reset)) =
    some [.selAssert, .xfer 0x80 0x01 0 1, .busMode .openDrain, .xfer 0xFF 0xFF 0 2, .xfer 0xFF 0xFF 0 3,
      .busMode .pushPull, .selDeassert, .response .ok 0] := by decide +kernel
/-- RP31, its fourth command. -/
theorem test_txbld : part (fun t => t.txb.safety) (exec (.txbld .safety 0x40AD) .reset) = some 0x40AD := by decide +kernel
/-- RP12. -/
theorem test_txbrd : reply (exec (.txbrd (.data 3)) (State.reset.withTxb ⟨0xC034, 4, [0x0010, 1, 0x64, 0x4000], 0xF4⟩)) =
    some (.ok, 0x4000) := by decide +kernel
/-- ME1. -/
theorem test_angle : part (fun t => (t.ma.angle, t.trace.getLast?)) (exec (.angle false) (ask [0, 0x4000, 0x00AD] .reset)) =
    some (⟨4, 1, 1, 11796480, [11796480, 0, 0, 0]⟩, some (.response .ok 11796480)) := by decide +kernel
/-- ME6: one attempt, nothing written to the channel. -/
theorem test_angle_retry_exhausted : part (fun t => (t.ma.angle.fill, t.csCount, t.trace.getLast?))
    (exec (.angle false) (ask [0, 0x4000, 0x00AC] (State.resetIn { Config.default with maxRetries := some 0 } Env.quiet))) =
    some (0, 0, some (.response .retryExhausted 0)) := by decide +kernel
/-- ME7. -/
theorem test_arev : reply (exec .arev (ask [0, 0x01FF, 0x009F] .reset)) = some (.ok, 0xFFFFFFFFFFFFFFFF) := by decide +kernel
/-- ME9. -/
theorem test_aangle : reply (exec .aangle (ask [0, 0x0002, 0x002D, 0, 0x2000, 0x0032] .reset)) = some (.ok, 53084160) := by
  decide +kernel
/-- P2 line 2: the angle read fails once; the command stands between two attempts, then ends. -/
theorem test_aangle_between_attempts : part (fun t => (t.busy, t.csCount))
    (exec .aangle (ask [0, 0x0002, 0x002D, 0, 0x2000, 0x4032, 0, 0, 0xE3] .reset)) =
    some (some ⟨.aangle, 0, some 2, 1⟩, 2) := by decide +kernel
theorem test_aangle_second_attempt : reply (andThen
    (exec .aangle (ask [0, 0x0002, 0x002D, 0, 0x2000, 0x4032, 0, 0, 0xE3, 0, 0x2000, 0x0032] .reset)) step) =
    some (.ok, 53084160) := by decide +kernel
/-- A state with a last sample at angle 0 and time `t0`, the timebase at `t1` (ME12 to ME16). -/
def sampledAt (a : Fx) (t0 t1 : U32) (s : State) : State :=
  (s.withEst { s.est with lastAngle := a, lastTime := t0 }).withEnv { s.env with now := t1 }
/-- ME12. -/
theorem test_speed : part (fun t => (t.est.lastAngle, t.est.lastTime, t.trace.getLast?))
    (exec .speed (sampledAt 0 1000 2000 (ask [0, 0, 0x0017, 0, 0x0100, 0x000B] .reset))) =
    some (184320, 2000, some (.response .ok 184320000)) := by decide +kernel
/-- ME15: toward zero. -/
theorem test_speed_truncates : reply (exec .speed (sampledAt 184321 1997 2000 (ask [0, 0, 0x0017, 0, 0x0100, 0x000B] .reset))) =
    some (.ok, 0xFFFFFFFFFFFAE9EB) := by decide +kernel
/-- ME18: the speed register strategy with the example constants. -/
theorem test_speed_register : reply (exec .speed (ask [0, 0x7FF0, 0x0001, 0x0064, 0xC000, 0x0087]
    (State.resetIn { Config.default with
      speedStrategy := .speedRegister
      speedScale := some ⟨262144, 131072, 65536, 32768⟩ } Env.quiet))) = some (.ok, 0xFFFFFFFFFFF80000) := by decide +kernel
/-- ME16. -/
theorem test_accel : reply (exec .accel (sampledAt 0 1000 2000 (ask [0, 0, 0x0017, 0, 0x0100, 0x000B] .reset))) =
    some (.ok, 184320000000) := by decide +kernel
/-- U7: the numerator `(A - lastAngle) x 10^12` leaves 64 bits between these two last angles. -/
theorem test_accel_numerator : [-9039052, -9039053].map (fun a => faultOf
    (exec .accel (sampledAt a 1000 2000 (ask [0, 0, 0x0017, 0, 0x0100, 0x000B] .reset)))) = [none, some .fxOverflow] := by
  decide +kernel
/-- ME14: no time has passed. -/
theorem test_accel_no_time : faultOf (exec .accel (ask [0, 0, 0x0017, 0, 0x0100, 0x000B] .reset)) = some .zeroInterval := by
  decide +kernel
/-- ME19. -/
theorem test_temp : part (fun t => (t.fm.motorState, t.trace.drop 7)) (exec .temp (ask [0, 0x0064, 0x00EF] .reset)) =
    some (.overtemperature, [.motorState .overtemperature false, .response .ok 5949231]) := by decide +kernel
/-- P4 line 7: the warning band backs the current off. -/
theorem test_temp_back_off : part (fun t => (t.fm.rmsCurrent, t.fm.lastOtTime)) (exec .temp
    (sampledAt 0 0 1000000 (ask [0, 0x0046, 0x0052] (State.reset.withFm { State.reset.fm with rmsCurrent := 1000 })))) =
    some (900, 1000000) := by decide +kernel
/-- ME21. -/
theorem test_zero : part (fun t => (t.est.startupRevOfs, t.est.startupAngleOfs, t.ma.angle.sum))
    (exec .zero (ask [0, 0x0003, 0x0030, 0, 0x2000, 0x0032] .reset)) = some (3, 5898240, 5898240) := by decide +kernel
/-- ME24. -/
theorem test_setofs : reply (andThen (exec (.setofs 0x18000) (ask [0, 0x4000, 0x00AD] .reset)) (exec (.angle false))) =
    some (.ok, 11698176) := by decide +kernel
/-- FM5: the latch is not overridden. -/
theorem test_setstate_latched : reply (exec (.setstate .enabled false)
    (State.reset.withFm { State.reset.fm with motorState := .overtemperature })) = some (.ok, 4) := by decide +kernel
/-- FM6. -/
theorem test_setstate_clears : part (fun t => t.fm) (exec (.setstate .disabled true)
    (State.reset.withFm ⟨11, 0, .overtemperature, 0, true, false⟩)) = some ⟨0, 0, .disabled, 0, false, false⟩ := by decide +kernel
/-- FM10. -/
theorem test_getstate : reply (exec .getstate (State.reset.withFm ⟨11, 0, .enabled, 0, true, false⟩)) =
    some (.ok, 0x0000000B00000100) := by decide +kernel
/-- FM11. -/
theorem test_setcur : part (fun t => (t.fm.rmsCurrent, t.trace)) (exec (.setcur 1000) .reset) =
    some (1000, [.rmsCurrent 1000, .response .ok 0]) := by decide +kernel
/-- FM12. -/
theorem test_getcur : reply (andThen (exec (.setcur 1000) .reset) (exec .getcur)) = some (.ok, 1000) := by decide +kernel
/-- FM20 and FM21: the count is compared after the increment, strictly. -/
theorem test_stall_limit : [9, 10].map (fun n => (stallEval 5 (State.reset.withFm { State.reset.fm with stallCount := n })).fm.stallOut) =
    [false, true] := by decide +kernel
/-- The reset state with two positions (SC3, SC5). -/
def at_ (des cur : U32) (s : State) : State := s.withSch { s.sch with desiredStep := des, currentStep := cur }
/-- SC18. -/
theorem test_sched : part (fun t => (t.sch.schedDir, t.sch.schedRate, t.sch.schedCount, t.sch.schedActive))
    (exec (.sched .minus 100 2) .reset) = some (.minus, 100, 2, true) := by decide +kernel
/-- SC2. -/
theorem test_setdes : part (fun t => t.sch.desiredStep.toInt) (exec (.setdes 0xFFFFFFFD) .reset) = some (-3) := by decide +kernel
theorem test_setpos : part (fun t => t.sch.currentStep.toInt) (exec (.setpos 50) .reset) = some 50 := by decide +kernel
/-- SC3. -/
theorem test_geterr : reply (exec .geterr (at_ 0xFFFFFFFD 2 .reset)) = some (.ok, 0xFFFFFFFFFFFFFFFB) := by decide +kernel
/-- SC4: not wrapped. -/
theorem test_geterr_unwrapped : reply (exec .geterr (at_ 0x7FFFFFFF 0x80000000 .reset)) = some (.ok, 0x00000000FFFFFFFF) := by
  decide +kernel
/-- SC5. -/
theorem test_getpos : reply (exec .getpos (at_ 3 0xFFFFFFFF .reset)) = some (.ok, 0x00000003FFFFFFFF) := by decide +kernel
/-- SC15. -/
theorem test_cten_off : part (fun t => (t.sch.tickEnabled, t.sch.fineEnabled)) (exec (.cten false)
    (State.reset.withSch { State.reset.sch with tickEnabled := true, fineEnabled := true })) = some (false, false) := by decide +kernel
/-- SC17: the direction input. -/
theorem test_step_edge : part (fun t => t.sch.desiredStep.toInt)
    (exec .evStepedge (State.reset.withEnv { State.reset.env with dirIn := true })) = some (-1) := by decide +kernel
/-- SC20: the last step of a schedule disarms it. -/
theorem test_ev_sched : part (fun t => (t.sch.desiredStep.toInt, t.sch.currentStep.toInt, t.sch.schedCount, t.sch.schedActive))
    (exec .evSched (State.reset.withSch { State.reset.sch with schedActive := true, schedCount := 1, schedDir := .minus })) =
    some (-1, -1, 0, false) := by decide +kernel
/-- A state whose correction runs, motor on, enable asserted. -/
def running (s : State) : State :=
  ((s.withSch { s.sch with tickEnabled := true }).withFm { s.fm with motorState := .enabled }).withEnv { s.env with enableIn := true }
/-- SC6: the error is not wrapped. -/
theorem test_ev_tick : part (fun t => (t.sch.currentStep, t.fm.stallCount, t.fm.stallOut, t.trace))
    (exec .evTick (running (at_ 0x80000000 0x7FFFFFFF .reset))) =
    some (0x7FFFFFFE, 1, true, [.step .minus false false]) := by decide +kernel
/-- P6 line 3: the PID policy. -/
theorem test_ev_tick_pid : part (fun t => (t.sch.pidInteg.toInt, t.sch.fineFreq, t.sch.fineDir, t.sch.fineEnabled))
    (exec .evTick (running (at_ 0xFFFFFFFC 0 (State.resetIn { Config.default with correctionPolicy := .pid } Env.quiet)))) =
    some (-4, 42, .minus, true) := by decide +kernel
/-- R12, U7: a PID output of 655360 x (2^31 - 1) + ... does not fit 48 bits. -/
theorem test_ev_tick_pid_overflow : faultOf (exec .evTick (running (at_ 0x7FFFFFFF 0 (State.resetIn
    { Config.default with correctionPolicy := .pid, fxw := 48 } Env.quiet)))) = some .fxOverflow := by decide +kernel
/-- R25, R240: a limit of 2^31 is a configuration; the memory inside 32 bits is stored as it is. -/
theorem test_wide_limit : (Cfg.wf { Config.default with pidILimit := 2147483648 }) = true ∧
    (storeInteg (-2147483648)).toInt = -2147483648 := by decide +kernel
/-- SC7: the position wraps. -/
theorem test_ev_fine : part (fun t => (t.sch.currentStep.toInt, t.trace)) (exec .evFine
    (State.reset.withSch { State.reset.sch with currentStep := 0x7FFFFFFF, fineEnabled := true })) =
    some (-2147483648, [.step .plus false false]) := by decide +kernel
/-- P5 line 7: events pending together go in the order of priority, before the next command. -/
theorem test_event_before_command : part (fun t => (t.pending, t.sch.desiredStep.toInt, t.env.port))
    (step ((State.reset.withPending 0xB).withEnv { State.reset.env with port := [0x5400000000000000] })) =
    some (0x3, 1, [0x5400000000000000]) := by decide +kernel
/-- Section 9: an unknown opcode is answered and nothing else changes. -/
theorem test_refused_word : part (fun t => (t.csCount, t.trace))
    (step (State.reset.withEnv { State.reset.env with port := [0xFF00000000000000] })) =
    some (0, [.response .illegalCommand 0]) := by decide +kernel
theorem test_fetch_word : reply (step (State.reset.withFetchWord 64 0x0100000000000000)) = some (.ok, 1) := by decide +kernel
theorem test_fetch_event : part (fun t => t.sch.desiredStep.toInt) (step (State.reset.withFetchWord 8 0x8)) = some 1 := by decide +kernel

/-! ### Witnesses: for each statement with hypotheses, concrete values that meet them all, at the ends of their ranges -/

/-- The outcome is a next state. -/
theorem next_of {o : Host.Outcome State Fault Refusal} (h : part (fun _ => true) o = some true) : ∃ t, o = .next t := by
  cases o with
  | next t => exact ⟨t, rfl⟩
  | fault f => cases h
  | refused r => cases h

/-- Reset with a word on the port and a nesting depth. -/
def port (cw : Long) (s : State) : State := s.withEnv { s.env with port := [cw] }

/-- Reset with an arriving moment. -/
def arriving (reset : Bool) (s : State) : State :=
  s.withEnv { s.env with moments := [⟨reset, 7, true, true, 0xF, some 5⟩] }

/-- A command in flight at its angle read, `n` attempts failed. -/
def waiting (op : EstOp) (rev : Option Word) (n : Nat) (s : State) : State :=
  (s.withBusy (some ⟨op, 9, rev, n⟩)).withCs (BitVec.ofNat 8 op.depth)

/-- A revolution word 2 and an angle word 0x2000, both accepted (ME9). -/
def goodBoth (s : State) : State := ask [0, 0x0002, 0x002D, 0, 0x2000, 0x0032] s

/-- A configuration with the speed register strategy and all scales given (ME17). -/
def byRegister : State :=
  State.resetIn { Config.default with speedStrategy := .speedRegister, speedScale := some ⟨262144, 131072, 65536, 32768⟩ } Env.quiet

/-- Storage of 48 bits, with an offset that makes an angle sample leave it. -/
def narrow : State :=
  let s := State.resetIn { Config.default with fxw := 48 } Env.quiet
  s.withEst { s.est with startupAngleOfs := -140737488355328 }

theorem witness_DecodeInvertsEncode : Instr.wf Config.default (.macfg .temp 256) = true ∧
    Instr.wf Config.default (.rdburst true 1023 15) = true ∧ Instr.wf Config.default (.sched .minus 1 0xFFFFFFFF) = true ∧
    Instr.wf Config.default (.setbf 6 0xFFFF) = true := by decide
theorem witness_EncodeInvertsDecode : decode Config.default 0x22000 = .illegalCommand ∧
    decode Config.default 0x220003FF0000FFFF = .instr (.wrreg 0x3FF 0xFFFF) := by decide
theorem witness_StepRunsDecodedCommand :
    (let s := port 0x4100000000000000 ((State.reset.withCs 1).withPending 0xF)
     s.cfg.wf = true ∧ s.env.moments = [] ∧ s.busy = none ∧ s.csCount ≠ 0 ∧ s.env.port = [0x4100000000000000]) ∧
    (let s := port 0x4100000000000000 .reset
     s.cfg.wf = true ∧ s.env.moments = [] ∧ s.busy = none ∧ s.pending = 0 ∧ s.env.port = [0x4100000000000000]) ∧
    decode Config.default 0x4100000000000000 = .instr .getstate := by decide +kernel
theorem witness_StepTakesArrivals : (arriving false .reset).cfg.wf = true ∧
    (arriving false .reset).env.moments = [⟨false, 7, true, true, 0xF, some 5⟩] := by decide +kernel
theorem witness_StepDeliversHighestEvent :
    (let s := State.reset.withPending 0x7
     s.cfg.wf = true ∧ s.env.moments = [] ∧ s.busy = none ∧ s.csCount = 0 ∧ s.pending.getLsbD 2 = true ∧
      ∀ j : Fin 4, 2 < j → s.pending.getLsbD j.val = false) ∧
    (let s := State.reset.withPending 0x1
     s.pending.getLsbD 0 = true ∧ ∀ j : Fin 4, 0 < j → s.pending.getLsbD j.val = false) := by decide +kernel
theorem witness_RefusedWordOnlyResponds :
    (let s := port 0x5600000000000000 .reset
     s.cfg.wf = true ∧ s.env.moments = [] ∧ s.busy = none ∧ s.pending = 0 ∧ s.env.port = [0x5600000000000000] ∧
      decode s.cfg 0x5600000000000000 = .illegalCommand) ∧
    (let s := port 0x0100000000000001 ((State.reset.withCs 255).withPending 1)
     s.csCount ≠ 0 ∧ s.env.port = [0x0100000000000001] ∧ decode s.cfg 0x0100000000000001 = .illegalOperand) := by
  decide +kernel
theorem witness_ResetAtAnyMoment :
    (let s := arriving true (waiting .temp none 3 .reset)
     s.cfg.wf = true ∧ s.env.moments = [⟨true, 7, true, true, 0xF, some 5⟩]) := by decide +kernel
theorem witness_InvAtReset : Config.default.wf = true := by decide +kernel

/-- An idle state with an angle command on the port and a good answer. -/
def angleNext : State := port 0x3001000000000000 (ask [0, 0x4000, 0x00AD] .reset)

theorem angleNext_inv : StateInv angleNext := by
  refine ⟨by decide +kernel, ?_, ?_, ?_, ?_, ?_, ?_⟩
  · intro ch; unfold Filter.Ok; cases ch <;> decide +kernel
  · unfold PidBounded; decide +kernel
  · unfold SchedArmed; decide +kernel
  · unfold SizesOk; decide +kernel
  · unfold BusIdle; decide +kernel
  · intro p h; cases h
theorem witness_InvKeptByStep : StateInv angleNext ∧ ∃ t, step angleNext = .next t :=
  ⟨angleNext_inv, next_of (by decide +kernel)⟩
theorem witness_UnwrittenStateFixed : (∃ t, step angleNext = .next t) ∧ angleNext.env.moments = [] ∧
    ∃ t, step (arriving true angleNext) = .next t :=
  ⟨next_of (by decide +kernel), rfl, next_of (by decide +kernel)⟩
theorem witness_OneResponsePerCommand : State.reset.busy = none ∧ (∃ t, exec .getpos .reset = .next t) ∧
    (∃ t, exec .evTick .reset = .next t) ∧ ∃ t, exec .arev (ask [0, 0, 0xFFFF] .reset) = .next t :=
  ⟨rfl, next_of (by decide +kernel), next_of (by decide +kernel), next_of (by decide +kernel)⟩
theorem witness_DepthBalanced : State.reset.busy = none ∧ (∃ t, exec .accel (ask [0, 0, 0xFFFF] (State.reset.withCs 251)) = .next t) ∧
    (∃ t, exec .evFine (State.reset.withCs 254) = .next t) ∧ Instr.accel ≠ .csenter ∧ Instr.evFine ≠ .csexit :=
  ⟨rfl, next_of (by decide +kernel), next_of (by decide +kernel), by decide, by decide⟩
theorem witness_SectionCommands : (State.reset.withCs 254).csCount ≠ 255 ∧ (State.reset.withCs 255).csCount = 255 ∧
    (State.reset.withCs 1).csCount ≠ 0 ∧ State.reset.csCount = 0 := by decide +kernel
theorem witness_FilterCommands : CanEnter 1 (narrow.withCs 254) ∧ 1 ≤ (1 : Word).toNat ∧ (256 : Word).toNat ≤ narrow.cfg.maMaxCap ∧
    narrow.cfg.maMaxCap < (257 : Word).toNat ∧ (0 : Word).toNat = 0 ∧ SampleFits .speed (0x80000000 : U32).toInt narrow ∧
    ¬ SampleFits .speed (1 : U32).toInt
      (narrow.withMa { narrow.ma with speed := ⟨2, 1, 1, 140737488355327, [140737488355327, 0]⟩ }) := by
  unfold CanEnter SampleFits; decide +kernel
theorem witness_FilterAddRule : (Machine.Filter.mk 1 0 1 5 [5]).fill = (Machine.Filter.mk 1 0 1 5 [5]).cap ∧
    (Machine.Filter.empty 1).fill ≠ (Machine.Filter.empty 1).cap := by decide
theorem witness_MovingAverageMean : 1 ≤ 1 ∧ 1 ≤ [(3 : Fx)].length ∧ [(3 : Fx)].length ≤ 1 ∧ 1 < [(3 : Fx), 4].length := by decide
theorem witness_FilterChannelsIndependent : (∃ t, exec .zero (goodBoth .reset) = .next t) ∧
    Chan.absAngle ∉ channelsOf Config.default .zero := ⟨next_of (by decide +kernel), by decide +kernel⟩
theorem witness_ReadTransaction : State.reset.txb.data.length = 15 := by decide +kernel
theorem witness_CacheUpdate : (15 : Byte).toNat < State.reset.cache.length ∧
    State.reset.cfg.slotOf (14 + BitVec.ofNat 10 1) = some 15 ∧ State.reset.cfg.slotOf (14 + BitVec.ofNat 10 2) ≠ some 15 ∧
    State.reset.cfg.slotOf (14 + BitVec.ofNat 10 0) ≠ some 15 := by decide +kernel
theorem witness_ReadCommands : CanEnter 2 (State.reset.withCs 253) ∧ (15 : BitVec 4) ≠ 0 ∧ (0 : BitVec 4) = 0 := by
  unfold CanEnter; decide +kernel
theorem witness_WriteAndResetCommands : CanEnter 1 (State.reset.withCs 254) := by unfold CanEnter; decide +kernel
theorem witness_GetFieldCommand : CanEnter 2 (State.reset.withCs 253) ∧ State.reset.cfg.wf = true ∧
    State.reset.cache.length = State.reset.cfg.nslots ∧
    State.reset.cfg.fieldTable[(4 : Byte).toNat]?.map (·.mode) = some .readWrite ∧
    State.reset.cfg.fieldTable[(6 : Byte).toNat]?.map (·.mode) = some .reserved ∧
    State.reset.cfg.fieldTable.length ≤ (7 : Byte).toNat := by unfold CanEnter; decide +kernel
theorem witness_SetFieldCommand : CanEnter 1 (State.reset.withCs 254) ∧
    State.reset.cfg.fieldTable[(5 : Byte).toNat]?.map (fun f => (f.mode, f.slot)) = some (.write, 6) ∧
    (State.reset.setSlot 6 0x1234).slot 6 = some 0x1234 ∧ State.reset.slot 6 = none ∧
    State.reset.cfg.fieldTable[(0 : Byte).toNat]?.map (·.mode) = some .read ∧
    State.reset.cfg.fieldTable.length ≤ (255 : Byte).toNat := by unfold CanEnter; decide +kernel
theorem witness_ValidateCommand : CanEnter 1 (State.reset.withCs 254) := by unfold CanEnter; decide +kernel
theorem witness_BufferCommands : CanEnter 1 (State.reset.withCs 254) ∧ (15 : Word).toNat ≤ 15 ∧ 15 < (16 : Word).toNat ∧
    State.reset.txb.data[14]? = some 0 := by unfold CanEnter; decide +kernel
theorem witness_FieldArithmetic : (3 : Word).toNat * 2 ^ (14 : BitVec 4).toNat < 2 ^ 16 ∧
    ((3 : Word) <<< (14 : BitVec 4).toNat) &&& ~~~ (0xC000 : Word) = 0 := by decide
theorem witness_ValidateOrder : [0x7000#16, 0x3000#16, 0x1000#16, 0x0001#16, 0x00BE#16].map
    (fun w => validate Config.default ⟨0, 0, [], w⟩) =
    [.systemError, .interfaceAccessError, .invalidAngleError, .crcMismatch, .ok] := by decide +kernel
theorem witness_ResetAfterError : validate State.reset.cfg (State.reset.withTxb ⟨0, 0, [], 0x4000⟩).txb = .systemError ∧
    validate State.reset.cfg (State.reset.withTxb ⟨0, 0, [], 0x2000⟩).txb = .interfaceAccessError ∧
    State.reset.cfg.safetyResetOnIface = false := by decide +kernel
theorem witness_CrcDetectsSingleBit : Config.default.crcPoly.getLsbD 0 = true := by decide
theorem witness_AngleCommand :
    (let s := ask [0, 0x4000, 0x00AD] (State.reset.withCs 253)
     CanEnter 2 s ∧ s.busy = none ∧ ReadOk s.cfg.regAngle 1 s ∧ SampleFits .angle (angleDegrees s (wordAt s.env 1)) s) ∧
    (let s := ask [0, 0x4000, 0x00AD] narrow
     CanEnter 2 s ∧ s.busy = none ∧ ReadOk s.cfg.regAngle 1 s ∧
       ¬ SampleFits .angle (angleDegrees s (wordAt s.env 1)) s) := by
  unfold CanEnter ReadOk SampleFits; decide +kernel
theorem witness_RevolutionCommand :
    (let s := ask [0, 0x01FF, 0x009F] (State.reset.withCs 253)
     CanEnter 2 s ∧ s.busy = none ∧ ReadOk s.cfg.regRev 1 s) := by unfold CanEnter ReadOk; decide +kernel
theorem witness_AbsoluteAngleCommand :
    (let s := goodBoth (State.reset.withCs 252)
     CanEnter 3 s ∧ s.busy = none ∧ BothReadsOk s ∧ AbsoluteFits s) ∧
    CanEnter 3 (goodBoth narrow) ∧ BothReadsOk (goodBoth narrow) ∧ ¬ AbsoluteFits (goodBoth narrow) := by
  unfold CanEnter BothReadsOk ReadOk AbsoluteFits AbsoluteWordsFit SampleFits; decide +kernel

/-- The hypotheses of the two derivative commands, with the time passed, for a channel. -/
def DerivativeReady (ch : Chan) (scale den : Int) (s : State) : Prop :=
  CanEnter 4 s ∧ s.busy = none ∧ BothReadsOk s ∧ (s.env.now - s.est.lastTime).toNat ≠ 0 ∧ AbsoluteFits s ∧
    DerivativeFits ch ((meanWith .absAngle (absoluteDegrees s) s - s.est.lastAngle) * scale) den s

/-- The hypotheses of the two derivative commands where the numerator does not fit (U7). -/
def NumeratorTooWide (scale : Int) (s : State) : Prop :=
  CanEnter 4 s ∧ s.busy = none ∧ BothReadsOk s ∧ (s.env.now - s.est.lastTime).toNat ≠ 0 ∧ AbsoluteFits s ∧
    fxFits s.cfg ((meanWith .absAngle (absoluteDegrees s) s - s.est.lastAngle) * scale) = false

theorem witness_SpeedByDifference : DerivativeReady .speed 1000000 1 (sampledAt 0 0xFFFFFFFF 0 (goodBoth (State.reset.withCs 251))) ∧
    State.reset.cfg.speedStrategy = .finiteDifference ∧
    NumeratorTooWide 1000000 (sampledAt (-9223372036854775808) 0xFFFFFFFF 0 (goodBoth (State.reset.withCs 251))) ∧
    ((goodBoth .reset).env.now - (goodBoth .reset).est.lastTime).toNat = 0 ∧ BothReadsOk (goodBoth .reset) := by
  unfold DerivativeReady NumeratorTooWide CanEnter BothReadsOk ReadOk AbsoluteFits AbsoluteWordsFit DerivativeFits SampleFits
  decide +kernel
theorem witness_SpeedByRegister :
    (let s := ask [0, 0x7FF0, 0x0001, 0x0064, 0xC000, 0x0087] (byRegister.withCs 253)
     let v := ((wordAt s.env (s.cfg.speedWordIdx + 1)).toNat : Int).bmod 32768 *
       speedScaleOf s.cfg ((wordAt s.env (s.cfg.modeWordIdx + 1)).extractLsb' s.cfg.modeShift 2)
     CanEnter 2 s ∧ s.busy = none ∧ s.cfg.speedStrategy = .speedRegister ∧ s.cfg.speedWordIdx ≤ 3 ∧ s.cfg.modeWordIdx ≤ 3 ∧
       ReadOk s.cfg.regSpeed 4 s ∧ SampleFits .speed v s ∧
       ¬ SampleFits .speed v (s.withMa { s.ma with speed := ⟨2, 1, 1, -9223372036854775808, [-9223372036854775808, 0]⟩ })) := by
  unfold CanEnter ReadOk SampleFits; decide +kernel
theorem witness_AccelerationCommand : DerivativeReady .accel 1000000000000 1000000 (sampledAt 43860788 1000 2000 (goodBoth (State.reset.withCs 251))) ∧
    NumeratorTooWide 1000000000000 (sampledAt 43860787 1000 2000 (goodBoth (State.reset.withCs 251))) ∧
    ((goodBoth .reset).env.now - (goodBoth .reset).est.lastTime).toNat = 0 ∧ BothReadsOk (goodBoth .reset) := by
  unfold DerivativeReady NumeratorTooWide CanEnter BothReadsOk ReadOk AbsoluteFits AbsoluteWordsFit DerivativeFits SampleFits
  decide +kernel
theorem witness_TemperatureCommand :
    (let s := ask [0, 0x0064, 0x00EF] (State.reset.withCs 253)
     CanEnter 2 s ∧ s.busy = none ∧ s.cfg.tempDiv ≠ 0 ∧ ReadOk s.cfg.regTemp 1 s ∧ SampleFits .temp 5949231 s ∧
       ¬ SampleFits .temp 5949231 (s.withMa { s.ma with temp := ⟨2, 1, 1, 9223372036854775807, [9223372036854775807, 0]⟩ })) := by
  unfold CanEnter ReadOk SampleFits; decide +kernel
theorem witness_OffsetCommands :
    (let s := goodBoth (State.reset.withCs 252)
     let a := angleDegrees s (wordAt s.env 4)
     CanEnter 3 s ∧ s.busy = none ∧ BothReadsOk s ∧ SampleFits .angle a s ∧ fxFits s.cfg (s.est.startupAngleOfs + a) = true) ∧
    CanEnter 3 (goodBoth narrow) ∧ BothReadsOk (goodBoth narrow) ∧
    ¬ SampleFits .angle (angleDegrees (goodBoth narrow) (wordAt (goodBoth narrow).env 4)) (goodBoth narrow) := by
  unfold CanEnter BothReadsOk ReadOk SampleFits; decide +kernel
theorem witness_FailedAttemptWaits :
    (let s := ask [0, 0x0002, 0x002D, 0, 0x2000, 0x4032] (State.reset.withCs 252)
     estOpOf s.cfg .aangle = some .aangle ∧ CanEnter (EstOp.aangle.depth + 1) s ∧ s.cfg.tempDiv ≠ 0 ∧
       s.cfg.maxRetries ≠ some 0 ∧ EstOp.aangle.readsBoth = true ∧ ReadOk s.cfg.regRev 1 s ∧
       ¬ ReadOk s.cfg.regAngle 1 (afterRead s.cfg.regRev 1 true s)) ∧
    (let s := ask [0, 0x0002, 0x002C] (State.reset.withCs 252)
     CanEnter (EstOp.aangle.depth + 1) s ∧
       ¬ ReadOk (firstTarget s.cfg .aangle).1 (firstTarget s.cfg .aangle).2 s) := by
  unfold CanEnter ReadOk; decide +kernel
/-- Reset with the bound 0 on failed attempts (ME6). -/
def oneAttempt : State := State.resetIn { Config.default with maxRetries := some 0 } Env.quiet

theorem witness_RetryBoundSpent_zero :
    (let s := ask [0, 0x4000, 0x00AC] (oneAttempt.withCs 253)
     estOpOf s.cfg (.angle false) = some (.angle false) ∧ CanEnter ((EstOp.angle false).depth + 1) s ∧ s.cfg.tempDiv ≠ 0 ∧
       s.cfg.maxRetries = some 0 ∧ ¬ ReadOk (firstTarget s.cfg (.angle false)).1 (firstTarget s.cfg (.angle false)).2 s) ∧
    (let s := ask [0, 0x0002, 0x002D, 0, 0x2000, 0x0033] (oneAttempt.withCs 252)
     estOpOf s.cfg .zero = some .zero ∧ CanEnter (EstOp.zero.depth + 1) s ∧ s.cfg.maxRetries = some 0 ∧
       EstOp.zero.readsBoth = true ∧ ReadOk s.cfg.regRev 1 s ∧ ¬ ReadOk s.cfg.regAngle 1 (afterRead s.cfg.regRev 1 true s)) := by
  unfold CanEnter ReadOk; decide +kernel
theorem witness_RetryBoundSpent :
    (let s := ask [0, 0x4000, 0x00AC] (waiting (.angle false) none 2
        (State.resetIn { Config.default with maxRetries := some 2 } Env.quiet))
     s.cfg.wf = true ∧ s.env.moments = [] ∧ s.busy = some ⟨.angle false, 9, none, 2⟩ ∧
       (EstOp.angle false).depth ≤ s.csCount.toNat ∧ CanEnter 1 s ∧ s.cfg.maxRetries = some 2 ∧
       ¬ ReadOk (currentTarget s.cfg ⟨.angle false, 9, none, 2⟩).1 (currentTarget s.cfg ⟨.angle false, 9, none, 2⟩).2 s) ∧
    (let s := ask [0, 0x4000, 0x00AC] (waiting .zero (some 0) 7 .reset)
     s.cfg.maxRetries = none ∧ s.busy = some ⟨.zero, 9, some 0, 7⟩ ∧ CanEnter 1 s ∧
       EstOp.zero.depth ≤ s.csCount.toNat ∧
       ¬ ReadOk (currentTarget s.cfg ⟨.zero, 9, some 0, 7⟩).1 (currentTarget s.cfg ⟨.zero, 9, some 0, 7⟩).2 s) := by
  unfold CanEnter ReadOk; decide +kernel
theorem witness_RetriedCommandGoesOn :
    (let s := goodBoth (State.reset.withCs 251)
     s.cfg.wf = true ∧ s.env.moments = [] ∧ estOpOf s.cfg .speed = some .speedDiff ∧
       CanEnter (EstOp.speedDiff.depth + 1) s ∧
       ReadOk (firstTarget s.cfg .speedDiff).1 (firstTarget s.cfg .speedDiff).2 s) := by
  unfold CanEnter ReadOk; decide +kernel
/-- A command waiting at its angle read with the revolution word 2, an accepted angle word 0x2000 next, `now` of its start 9. -/
def secondRead (op : EstOp) (s : State) : State := ask [0, 0x2000, 0x0032] (waiting op (some 2) 7 s)

/-- The hypotheses of the second clause for a state that stands at its angle read. -/
def SecondReady (op : EstOp) (s : State) : Prop :=
  s.cfg.wf = true ∧ s.env.moments = [] ∧ s.busy = some ⟨op, 9, some 2, 7⟩ ∧ op.depth ≤ s.csCount.toNat ∧ CanEnter 1 s ∧
    ReadOk s.cfg.regAngle 1 s

theorem witness_RetriedCommandGoesOn_aangle :
    (SecondReady .aangle (secondRead .aangle .reset) ∧ AbsoluteWordsFit (secondRead .aangle .reset) 2 0x2000) ∧
    SecondReady .aangle (secondRead .aangle narrow) ∧ ¬ AbsoluteWordsFit (secondRead .aangle narrow) 2 0x2000 := by
  unfold SecondReady CanEnter ReadOk AbsoluteWordsFit SampleFits; decide +kernel
theorem witness_RetriedCommandGoesOn_speed :
    SecondReady .speedDiff (secondRead .speedDiff .reset) ∧
    ((9 : U32) - (secondRead .speedDiff .reset).est.lastTime).toNat = 9 ∧
    AbsoluteWordsFit (secondRead .speedDiff .reset) 2 0x2000 ∧
    DerivativeFits .speed (53084160 * 1000000) 9 (secondRead .speedDiff .reset) := by
  unfold SecondReady CanEnter ReadOk AbsoluteWordsFit DerivativeFits SampleFits; decide +kernel
theorem witness_RetriedCommandGoesOn_accel :
    (SecondReady .accel (secondRead .accel .reset) ∧ AbsoluteWordsFit (secondRead .accel .reset) 2 0x2000 ∧
      DerivativeFits .accel ((53084160 - 43860788) * 1000000000000) 81 (secondRead .accel .reset) ∧
      ¬ DerivativeFits .accel (53084160 * 1000000000000) 81 (secondRead .accel .reset)) ∧
    SecondReady .accel (secondRead .accel (sampledAt 0 9 0 .reset)) ∧
    ((9 : U32) - (secondRead .accel (sampledAt 0 9 0 .reset)).est.lastTime).toNat = 0 := by
  unfold SecondReady CanEnter ReadOk AbsoluteWordsFit DerivativeFits SampleFits; decide +kernel
theorem witness_RetriedCommandGoesOn_zero :
    (SecondReady .zero (secondRead .zero .reset) ∧ SampleFits .angle 5898240 (secondRead .zero .reset) ∧
      fxFits Config.default (0 + 5898240) = true) ∧
    SecondReady .zero (secondRead .zero narrow) ∧
    ¬ SampleFits .angle (angleDegrees (secondRead .zero narrow) 0x2000) (secondRead .zero narrow) := by
  unfold SecondReady CanEnter ReadOk SampleFits; decide +kernel
theorem witness_BusyBlocksOtherWork :
    (let s := ask [0, 0x4000, 0x00AC] (port 0x4100000000000000 ((waiting (.angle true) none 0 .reset).withPending 0xF))
     s.env.moments = [] ∧ s.busy = some ⟨.angle true, 9, none, 0⟩ ∧ part (fun t => t.busy) (step s) =
       some (some ⟨.angle true, 9, none, 1⟩)) := by decide +kernel
theorem witness_ComponentsKeepApart : (∃ t, exec .aangle (goodBoth .reset) = .next t) ∧
    estOpOf Config.default .aangle = some .aangle ∧ (∃ t, exec .evTick .reset = .next t) ∧
    ∃ t, exec (.setdes 1) .reset = .next t :=
  ⟨next_of (by decide +kernel), by decide +kernel, next_of (by decide +kernel), next_of (by decide +kernel)⟩

/-- Reset in a motor state. -/
def motor (st : MotorState) (s : State) : State := s.withFm { s.fm with motorState := st }

theorem witness_SetMotorStateRule : (motor .enabled .reset).fm.motorState ≠ .disabled ∧ State.reset.fm.motorState = .disabled := by
  decide +kernel
theorem witness_OtEvalRule : (motor .overtemperature .reset).fm.motorState = .overtemperature ∧
    (4587519 : Fx) < State.reset.cfg.otClear ∧ State.reset.cfg.otClear ≤ (4587520 : Fx) ∧
    State.reset.fm.motorState ≠ .overtemperature ∧ State.reset.cfg.otShutdown ≤ (5242880 : Fx) ∧
    (5242879 : Fx) < State.reset.cfg.otShutdown ∧ State.reset.cfg.otWarn ≤ (3932160 : Fx) ∧
    (3932159 : Fx) < State.reset.cfg.otWarn ∧
    State.reset.cfg.otInterval.toNat ≤ ((1000000 : U32) - State.reset.fm.lastOtTime).toNat ∧
    ((999999 : U32) - State.reset.fm.lastOtTime).toNat < State.reset.cfg.otInterval.toNat := by decide +kernel
theorem witness_OvertemperatureLatch :
    part (fun t => t.fm.motorState) (exec (.setstate .forcedEnabled true) (motor .overtemperature .reset)) = some .forcedEnabled ∧
    part (fun t => t.fm.motorState) (exec .temp (ask [0, 0x002A, 0x005A] (motor .overtemperature .reset))) = some .disabled := by
  decide +kernel
theorem witness_MonitorCommands : CanEnter 1 (motor .overtemperature (State.reset.withCs 254)) ∧
    (motor .overtemperature (State.reset.withCs 254)).fm.motorState = .overtemperature ∧ CanEnter 1 State.reset ∧
    State.reset.fm.motorState ≠ .overtemperature := by unfold CanEnter; decide +kernel
theorem witness_SchedulerCommands : CanEnter 1 (State.reset.withCs 254) ∧ State.reset.cfg.schedPresent = true ∧ (1 : Word) ≠ 0 ∧
    (State.resetIn { Config.default with schedPresent := false } Env.quiet).cfg.schedPresent = false := by
  unfold CanEnter; decide +kernel
/-- The fault of an operation. -/
def failure (r : Except Fault State) : Option Fault :=
  match r with
  | .error f => some f
  | .ok _ => none

theorem witness_TickLabels :
    (let s := running (at_ 2 0 (State.reset.withCs 254))
     CanEnter 1 s ∧ s.sch.tickEnabled = true ∧ s.fm.motorState ≠ .forcedDisabled ∧ s.fm.motorState ≠ .overtemperature ∧
       s.env.enableIn = true ∧ 1 < (s.sch.desiredStep.toInt - s.sch.currentStep.toInt).natAbs ∧
       s.cfg.correctionPolicy = .direct) ∧
    ((running (at_ 0 1 .reset)).sch.desiredStep.toInt - (running (at_ 0 1 .reset)).sch.currentStep.toInt).natAbs ≤ 1 ∧
    [State.reset, narrow].map (fun s => failure (pidStep 4294967295 s)) = [none, some .fxOverflow] ∧
    State.reset.sch.tickEnabled = false ∧ State.reset.env.enableIn = false ∧ State.reset.fm.motorState ≠ .forcedEnabled ∧
    (State.resetIn { Config.default with correctionPolicy := .pid } Env.quiet).cfg.correctionPolicy = .pid := by
  unfold CanEnter; decide +kernel
theorem witness_PidStepRule : fxFits Config.default (655360 * 5 + 32768 * 5) = true ∧
    fxFits { Config.default with fxw := 48 } (655360 * 4294967295 + 32768 * 1000) = false := by decide +kernel
theorem witness_StepEvents : CanEnter 1 (State.reset.withCs 254) ∧ State.reset.sch.fineEnabled = false ∧
    State.reset.sch.schedActive = false ∧ State.reset.cfg.schedPresent = true ∧
    (State.reset.withSch { State.reset.sch with fineEnabled := true, schedActive := true, schedCount := 1 }).sch.schedActive = true := by
  unfold CanEnter; decide +kernel
theorem witness_ScheduleIssuesExactCount : CanEnter 1 (State.reset.withCs 254) ∧ State.reset.cfg.schedPresent = true ∧
    (65535 : Word) ≠ 0 := by unfold CanEnter; decide +kernel
theorem witness_DirectTicksReachTolerance :
    (let s := running (at_ 0x7FFFFFFF 0x7FFFFFFC (State.reset.withCs 254))
     CanEnter 1 s ∧ s.cfg.correctionPolicy = .direct ∧ s.sch.tickEnabled = true ∧ s.env.enableIn = true ∧
       s.fm.motorState ≠ .forcedDisabled ∧ s.fm.motorState ≠ .overtemperature ∧ 2 ≤ (stepError s).natAbs - 1) := by
  unfold CanEnter; decide +kernel

end Sys2Proof.Tests
end

section
/-! SUPPORT. No step writes the configuration, and none but a reset writes `elecAngle` or `ledOut` (00_scope.md R6, 10_state.md R25, R29,
45_correction_scheduler.md R232). The three are read as one value, `State.unwritten`; each operation of the model gets its frame lemma
about it, in the order of the model's files, up to `exec` and `step`. -/

namespace Sys2Proof.Machine

open Sys2Proof

/-- What only a reset may write: the configuration, `elecAngle` and `ledOut`. -/
def State.unwritten (s : State) : Cfg × Fx × Bool := (s.cfg, s.sch.elecAngle, s.fm.ledOut)

/-! ### The setters -/

@[simp] theorem State.withCs_unwritten (s : State) (x : BitVec 8) : (s.withCs x).unwritten = s.unwritten := rfl
@[simp] theorem State.withEst_unwritten (s : State) (x : EstRegs) : (s.withEst x).unwritten = s.unwritten := rfl
@[simp] theorem State.withMa_unwritten (s : State) (x : Bank Filter) : (s.withMa x).unwritten = s.unwritten := rfl
@[simp] theorem State.withBusy_unwritten (s : State) (x : Option InFlight) : (s.withBusy x).unwritten = s.unwritten := rfl
@[simp] theorem State.respond_unwritten (s : State) (k : Status) (d : Long) : (s.respond k d).unwritten = s.unwritten := rfl
@[simp] theorem State.setSlot_unwritten (s : State) (i : Byte) (w : Word) : (s.setSlot i w).unwritten = s.unwritten := rfl

theorem State.withSch_unwritten {s : State} {x : SchedRegs} (h : x.elecAngle = s.sch.elecAngle) :
    (s.withSch x).unwritten = s.unwritten := by
  simp [State.unwritten, h]

/-! ### Commands and handlers -/

/-- A body of a section that leaves the unwritten elements alone. -/
def KeepsUnwritten {α : Type} (body : State → Except Fault (α × State)) : Prop :=
  ∀ s a t, body s = .ok (a, t) → t.unwritten = s.unwritten

theorem command_unwritten {body : State → Except Fault (Reply × State)} (hb : KeepsUnwritten body) {s t : State}
    (h : command body s = .next t) : t.unwritten = s.unwritten := by
  obtain ⟨-, r, u, hu, -, rfl⟩ := command_next_iff.mp h
  simpa using hb _ _ _ hu

/-- A command whose body cannot fail. -/
theorem command_ok_unwritten {reply : State → Reply} {next : State → State} {s t : State}
    (h : command (fun s1 => .ok (reply s1, next s1)) s = .next t) (hn : ∀ s1, (next s1).unwritten = s1.unwritten) :
    t.unwritten = s.unwritten :=
  command_unwritten (by rintro s1 r u ⟨⟩; exact hn s1) h

theorem handler_unwritten {body : State → Except Fault State} (hb : ∀ s t, body s = .ok t → t.unwritten = s.unwritten)
    {s t : State} (h : handler body s = .next t) : t.unwritten = s.unwritten := by
  obtain ⟨-, u, hu, -, rfl⟩ := handler_next_iff.mp h
  simpa using hb _ _ hu

theorem refuseCommand_unwritten {k : Status} {s t : State} (h : refuseCommand k s = .next t) :
    t.unwritten = s.unwritten := by
  cases h
  simp

theorem answer_unwritten {r : Reply} {s t : State} (h : answer (.ok (r, s)) = .next t) : t.unwritten = s.unwritten := by
  cases h
  simp

/-! ### The transport and the register protocol -/

theorem SameCore.unwritten {s t : State} (h : SameCore s t) : t.unwritten = s.unwritten := by
  simp only [State.unwritten, h.cfg, h.sch, h.fm]

theorem readRegister_unwritten {reg : RegNum} {n : BitVec 4} {safe : Bool} : KeepsUnwritten (readRegister reg n safe) := by
  rintro s ⟨d, k⟩ t h
  obtain ⟨-, hcore, -⟩ := readRegister_ok h
  exact hcore.unwritten

theorem readBody_unwritten {reg : RegNum} {n : BitVec 4} {safe : Bool} {data : List Word → Long} :
    KeepsUnwritten (readBody reg n safe data) := by
  intro s a t h
  unfold readBody at h
  split at h
  next => cases h
  next hr => cases h; exact readRegister_unwritten _ _ _ hr

theorem getField_unwritten (f : Descriptor) : KeepsUnwritten (getField f) := by
  intro s a t h
  unfold getField at h
  split at h
  next =>
    split at h
    next => cases h
    next hr =>
      split at h
      next => cases h
      next => cases h; exact readRegister_unwritten _ _ _ hr
  next => cases h; rfl

theorem setField_unwritten (f : Descriptor) (x : Word) : KeepsUnwritten (setField f x) := by
  intro s a t h
  unfold setField at h
  split at h
  next =>
    split at h
    next => cases h
    next => cases h; simp [(memWrite_sameCore _ _ _).unwritten]
  next => cases h; rfl

/-! ### The fault monitor -/

@[simp] theorem setMotorState_unwritten (st : MotorState) (clr : Bool) (s : State) :
    (setMotorState st clr s).unwritten = s.unwritten := by
  simp [State.unwritten, (setMotorState_outside st clr s).cfg]

@[simp] theorem setStallOut_unwritten (b : Bool) (s : State) : (setStallOut b s).unwritten = s.unwritten := rfl
@[simp] theorem clearStall_unwritten (s : State) : (clearStall s).unwritten = s.unwritten := rfl
@[simp] theorem backOff_unwritten (now : U32) (s : State) : (backOff now s).unwritten = s.unwritten := rfl
@[simp] theorem stallEval_unwritten (e : Int) (s : State) : (stallEval e s).unwritten = s.unwritten := rfl

@[simp] theorem otEval_unwritten (x : Fx) (now : U32) (s : State) : (otEval x now s).unwritten = s.unwritten := by
  unfold otEval
  split_ifs <;> simp

@[simp] theorem applySetState_unwritten (st : MotorState) (clr : Bool) (s : State) :
    (applySetState st clr s).unwritten = s.unwritten := by
  unfold applySetState
  split_ifs <;> simp

/-! ### The correction scheduler -/

@[simp] theorem issueStep_unwritten (dir : Dir) (u : Bool) (s : State) : (issueStep dir u s).unwritten = s.unwritten := rfl
@[simp] theorem disarmFine_unwritten (s : State) : (disarmFine s).unwritten = s.unwritten := rfl
@[simp] theorem schedFire_unwritten (s : State) : (schedFire s).unwritten = s.unwritten := rfl

/-- The fine timer is armed without a write of `elecAngle` (45_correction_scheduler.md R232, R241). -/
@[simp] theorem armFine_elecAngle (c : Cfg) (out : Fx) (r : SchedRegs) : (armFine c out r).elecAngle = r.elecAngle := by
  unfold armFine
  dsimp only
  split_ifs <;> rfl

theorem pidStep_unwritten {e : Int} {s t : State} (h : pidStep e s = .ok t) : t.unwritten = s.unwritten := by
  obtain ⟨-, rfl⟩ := pidStep_ok_iff.mp h
  exact State.withSch_unwritten (armFine_elecAngle _ _ _)

theorem correct_unwritten {e : Int} {s t : State} (h : correct e s = .ok t) : t.unwritten = s.unwritten := by
  unfold correct at h
  split at h
  next => cases h; simp
  next => exact pidStep_unwritten h

theorem tickCorrection_unwritten {s t : State} (h : tickCorrection s = .ok t) : t.unwritten = s.unwritten := by
  unfold tickCorrection at h
  dsimp only at h
  split_ifs at h
  · cases h; simp
  · cases hc : correct (stepError s) s with
    | error f => rw [hc] at h; cases h
    | ok u => rw [hc] at h; cases h; simpa using correct_unwritten hc

theorem tick_unwritten {s t : State} (h : tick s = .ok t) : t.unwritten = s.unwritten := by
  unfold tick at h
  split_ifs at h
  · cases h; rfl
  · cases h; rfl
  · cases h; simp
  · exact tickCorrection_unwritten h
  · simpa using tickCorrection_unwritten h

/-! ### The motion estimator -/

/-- An angle sample moves the filters alone (43_motion_estimator.md R181). -/
theorem angleSample_moves_filters {w : Word} {s t : State} {a : Fx} (h : angleSample w s = .ok (a, t)) :
    ∃ b, t = s.withMa b := by
  unfold angleSample at h
  split at h
  next => cases h
  next hm =>
    cases h
    obtain ⟨-, -, rfl⟩ := maAdd_ok_iff.mp hm
    exact ⟨_, rfl⟩

/-- An absolute angle sample moves the filters alone (43_motion_estimator.md R185). -/
theorem absAngleSample_moves_filters {rev w : Word} {s t : State} {a : Fx} (h : absAngleSample rev w s = .ok (a, t)) :
    ∃ b, t = s.withMa b := by
  unfold absAngleSample at h
  split at h
  next => cases h
  next hs =>
    obtain ⟨b, rfl⟩ := angleSample_moves_filters hs
    split at h
    next => cases h
    next =>
      split at h
      next => cases h
      next hm =>
        cases h
        obtain ⟨-, -, rfl⟩ := maAdd_ok_iff.mp hm
        exact ⟨_, State.withMa_withMa _ _ _⟩

theorem maAdd_unwritten {ch : Chan} {x : Fx} {s t : State} (h : maAdd ch x s = .ok t) : t.unwritten = s.unwritten := by
  obtain ⟨-, -, rfl⟩ := maAdd_ok_iff.mp h
  simp

theorem angleSample_unwritten (w : Word) : KeepsUnwritten (angleSample w) := by
  intro s a t h
  obtain ⟨b, rfl⟩ := angleSample_moves_filters h
  simp

theorem absAngleSample_unwritten (rev w : Word) : KeepsUnwritten (absAngleSample rev w) := by
  intro s a t h
  obtain ⟨b, rfl⟩ := absAngleSample_moves_filters h
  simp

theorem derivative_unwritten (ch : Chan) (a : Fx) (num den : Int) (now : U32) :
    KeepsUnwritten (derivative ch a num den now) := by
  intro s r t h
  unfold derivative at h
  split at h
  next => cases h
  next =>
    split at h
    next => cases h
    next hm => cases h; simpa using maAdd_unwritten hm

theorem finishAngle_unwritten (u : Bool) (w : Word) : KeepsUnwritten (finishAngle u w) := by
  intro s r t h
  unfold finishAngle at h
  split at h
  next => cases h
  next hs => cases h; exact angleSample_unwritten _ _ _ _ hs

theorem finishAangle_unwritten (rev w : Word) : KeepsUnwritten (finishAangle rev w) := by
  intro s r t h
  unfold finishAangle at h
  split at h
  next => cases h
  next hs => cases h; exact absAngleSample_unwritten _ _ _ _ _ hs

theorem finishSpeedDiff_unwritten (now : U32) (rev w : Word) : KeepsUnwritten (finishSpeedDiff now rev w) := by
  intro s r t h
  unfold finishSpeedDiff at h
  dsimp only at h
  split_ifs at h
  split at h
  next => cases h
  next hs => exact (derivative_unwritten _ _ _ _ _ _ _ _ h).trans (absAngleSample_unwritten _ _ _ _ _ hs)

theorem finishAccel_unwritten (now : U32) (rev w : Word) : KeepsUnwritten (finishAccel now rev w) := by
  intro s r t h
  unfold finishAccel at h
  dsimp only at h
  split_ifs at h
  split at h
  next => cases h
  next hs => exact (derivative_unwritten _ _ _ _ _ _ _ _ h).trans (absAngleSample_unwritten _ _ _ _ _ hs)

theorem finishSpeedReg_unwritten (d : List Word) : KeepsUnwritten (finishSpeedReg d) := by
  intro s r t h
  unfold finishSpeedReg at h
  split at h
  next => cases h
  next hm => cases h; exact maAdd_unwritten hm

theorem finishTemp_unwritten (now : U32) (w : Word) : KeepsUnwritten (finishTemp now w) := by
  intro s r t h
  unfold finishTemp at h
  split at h
  next => cases h
  next hm => cases h; simpa using maAdd_unwritten hm

theorem finishZero_unwritten (rev w : Word) : KeepsUnwritten (finishZero rev w) := by
  intro s r t h
  unfold finishZero at h
  split at h
  next => cases h
  next hs =>
    split at h
    next => cases h
    next => cases h; simpa using angleSample_unwritten _ _ _ _ hs

theorem finishOp_unwritten (op : EstOp) (now : U32) (rev : Word) (d : List Word) :
    KeepsUnwritten (finishOp op now rev d) := by
  cases op with
  | angle u => exact finishAngle_unwritten _ _
  | arev => rintro s r t ⟨⟩; rfl
  | aangle => exact finishAangle_unwritten _ _
  | speedDiff => exact finishSpeedDiff_unwritten _ _ _
  | speedReg => exact finishSpeedReg_unwritten _
  | accel => exact finishAccel_unwritten _ _ _
  | temp => exact finishTemp_unwritten _ _
  | zero => exact finishZero_unwritten _ _

theorem endCommand_unwritten {op : EstOp} {r : Reply} {s t : State} (h : endCommand op r s = .next t) :
    t.unwritten = s.unwritten := by
  unfold endCommand at h
  split at h
  next => cases h
  next hx =>
    obtain ⟨-, rfl⟩ := csExitMany_ok_iff.mp hx
    simpa using answer_unwritten h

theorem afterFailure_unwritten {p : InFlight} {s t : State} (h : afterFailure p s = .next t) :
    t.unwritten = s.unwritten := by
  unfold afterFailure at h
  dsimp only at h
  split at h
  next => cases h; simp
  next =>
    split_ifs at h
    · exact endCommand_unwritten h
    · cases h; simp

theorem attemptLast_unwritten {p : InFlight} {rev : Word} {s t : State} (h : attemptLast p rev s = .next t) :
    t.unwritten = s.unwritten := by
  unfold attemptLast at h
  dsimp only at h
  split at h
  next => cases h
  next hr =>
    have hread := readRegister_unwritten _ _ _ hr
    split_ifs at h
    · split at h
      next => cases h
      next hf => exact ((endCommand_unwritten h).trans (finishOp_unwritten _ _ _ _ _ _ _ hf)).trans hread
    · exact (afterFailure_unwritten h).trans hread

theorem attempt_unwritten {p : InFlight} {s t : State} (h : attempt p s = .next t) : t.unwritten = s.unwritten := by
  unfold attempt at h
  split at h
  next =>
    split at h
    next => cases h
    next hr =>
      have hread := readRegister_unwritten _ _ _ hr
      split_ifs at h
      · exact (attemptLast_unwritten h).trans hread
      · exact (afterFailure_unwritten h).trans hread
  next => exact attemptLast_unwritten h
  next => exact attemptLast_unwritten h

theorem startCommand_unwritten {op : EstOp} {s t : State} (h : startCommand op s = .next t) :
    t.unwritten = s.unwritten := by
  unfold startCommand at h
  split at h
  next => cases h
  next he =>
    obtain ⟨-, rfl⟩ := csEnterMany_ok_iff.mp he
    simpa using attempt_unwritten h

/-! ### The instructions with a choice of their own -/

theorem execCsenter_unwritten {s t : State} (h : execCsenter s = .next t) : t.unwritten = s.unwritten := by
  unfold execCsenter at h
  split at h
  next => cases h
  next he =>
    obtain ⟨-, rfl⟩ := csEnter_ok_iff.mp he
    simpa using answer_unwritten h

theorem execCsexit_unwritten {s t : State} (h : execCsexit s = .next t) : t.unwritten = s.unwritten := by
  unfold execCsexit at h
  split at h
  next => cases h
  next he =>
    obtain ⟨-, rfl⟩ := csExit_ok_iff.mp he
    simpa using answer_unwritten h

theorem execMacfg_unwritten {ch : Chan} {cap : Word} {s t : State} (h : execMacfg ch cap s = .next t) :
    t.unwritten = s.unwritten := by
  unfold execMacfg at h
  split_ifs at h
  · exact command_ok_unwritten h fun _ => rfl
  · exact refuseCommand_unwritten h

theorem execMaadd_unwritten {ch : Chan} {x : U32} {s t : State} (h : execMaadd ch x s = .next t) :
    t.unwritten = s.unwritten := by
  refine command_unwritten (fun s1 r u hb => ?_) h
  split at hb
  next => cases hb
  next hm => cases hb; exact maAdd_unwritten hm

theorem execRdburst_unwritten {safe : Bool} {reg : RegNum} {n : BitVec 4} {s t : State}
    (h : execRdburst safe reg n s = .next t) : t.unwritten = s.unwritten := by
  unfold execRdburst at h
  split_ifs at h
  · exact refuseCommand_unwritten h
  · exact command_unwritten readBody_unwritten h

theorem execGetbf_unwritten {idx : Byte} {s t : State} (h : execGetbf idx s = .next t) : t.unwritten = s.unwritten := by
  unfold execGetbf at h
  split at h
  next => exact refuseCommand_unwritten h
  next => exact command_unwritten (getField_unwritten _) h

theorem execSetbf_unwritten {idx : Byte} {v : Word} {s t : State} (h : execSetbf idx v s = .next t) :
    t.unwritten = s.unwritten := by
  unfold execSetbf at h
  split at h
  next => exact refuseCommand_unwritten h
  next => exact command_unwritten (setField_unwritten _ _) h

theorem execTxbld_unwritten {e : TxbElem} {v : Word} {s t : State} (h : execTxbld e v s = .next t) :
    t.unwritten = s.unwritten := by
  unfold execTxbld at h
  split_ifs at h
  · exact command_ok_unwritten h fun _ => rfl
  · exact refuseCommand_unwritten h

theorem execSpeed_unwritten {s t : State} (h : execSpeed s = .next t) : t.unwritten = s.unwritten := by
  unfold execSpeed at h
  split at h
  next => exact startCommand_unwritten h
  next => exact startCommand_unwritten h

theorem execTemp_unwritten {s t : State} (h : execTemp s = .next t) : t.unwritten = s.unwritten := by
  unfold execTemp at h
  split_ifs at h
  exact startCommand_unwritten h

theorem execSched_unwritten {dir : Dir} {rate : Word} {n : U32} {s t : State} (h : execSched dir rate n s = .next t) :
    t.unwritten = s.unwritten := by
  unfold execSched at h
  split_ifs at h
  · exact refuseCommand_unwritten h
  · exact refuseCommand_unwritten h
  · exact command_ok_unwritten h fun _ => rfl

theorem execEvFine_unwritten {s t : State} (h : execEvFine s = .next t) : t.unwritten = s.unwritten := by
  refine handler_unwritten (fun s1 u hb => ?_) h
  cases hb
  split_ifs <;> simp

theorem execEvSched_unwritten {s t : State} (h : execEvSched s = .next t) : t.unwritten = s.unwritten := by
  refine handler_unwritten (fun s1 u hb => ?_) h
  cases hb
  split_ifs <;> simp

/-! ### Every instruction, and the step -/

theorem exec_unwritten {i : Instr} {s t : State} (h : exec i s = .next t) : t.unwritten = s.unwritten := by
  cases i with
  | csenter => exact execCsenter_unwritten h
  | csexit => exact execCsexit_unwritten h
  | macfg => exact execMacfg_unwritten h
  | maadd => exact execMaadd_unwritten h
  | rdreg => exact command_unwritten readBody_unwritten h
  | rdburst => exact execRdburst_unwritten h
  | wrreg => exact command_ok_unwritten h fun _ => (memWrite_sameCore _ _ _).unwritten
  | getbf => exact execGetbf_unwritten h
  | setbf => exact execSetbf_unwritten h
  | valsafe => exact command_ok_unwritten h fun _ => (validateAndReset_sameCore _).unwritten
  | sreset => exact command_ok_unwritten h fun _ => (safetyReset_sameCore _).unwritten
  | txbld => exact execTxbld_unwritten h
  | speed => exact execSpeed_unwritten h
  | temp => exact execTemp_unwritten h
  | angle | arev | aangle | accel | zero => exact startCommand_unwritten h
  | setstate => exact command_ok_unwritten h fun _ => applySetState_unwritten _ _ _
  | sched => exact execSched_unwritten h
  | maval | txbrd | setofs | getstate | setcur | getcur | setdes | setpos | geterr | getpos | cten =>
    exact command_ok_unwritten h fun _ => rfl
  | evStepedge => exact handler_unwritten (by rintro s1 u ⟨⟩; rfl) h
  | evSched => exact execEvSched_unwritten h
  | evTick => exact handler_unwritten (fun _ _ => tick_unwritten) h
  | evFine => exact execEvFine_unwritten h

@[simp] theorem acceptWord_unwritten (cw : Long) (rest : List Long) (s : State) :
    (acceptWord cw rest s).2.unwritten = s.unwritten := by
  unfold acceptWord
  dsimp only
  split <;> rfl

/-- The choice of what comes next writes the pending bits and the port alone (60_exceptions.md R267). -/
@[simp] theorem nextWork_unwritten (s : State) : (nextWork s).2.unwritten = s.unwritten := by
  unfold nextWork
  split
  next => rfl
  next =>
    split
    next => rfl
    next =>
      split
      next => rfl
      next => simp

@[simp] theorem arrive_unwritten (m : Moment) (rest : List Moment) (s : State) :
    (arrive m rest s).unwritten = s.unwritten := rfl

theorem perform_unwritten {w : Work × State} {t : State} (h : perform w = .next t) : t.unwritten = w.2.unwritten := by
  obtain ⟨work, s⟩ := w
  cases work with
  | resume p => exact attempt_unwritten h
  | run i => exact exec_unwritten h
  | refuse k => exact refuseCommand_unwritten h
  | idle => cases h; rfl

/-- Everything a step can do where it gives a next state: work with nothing arriving, a reset, or work after an arrival
(60_exceptions.md R267, 70_reset_and_hazards.md R290). -/
theorem step_next_cases {s t : State} (h : step s = .next t) :
    (s.env.moments = [] ∧ perform (nextWork s) = .next t) ∨
    ∃ m rest, s.env.moments = m :: rest ∧
      (m.reset = true ∧ t = applyReset m rest s ∨
        m.reset = false ∧ perform (nextWork (arrive m rest s)) = .next t) := by
  unfold step at h
  split_ifs at h
  split at h
  next hm => exact .inl ⟨hm, h⟩
  next m rest hm =>
    split_ifs at h with hr
    · cases h; exact .inr ⟨m, rest, hm, .inl ⟨hr, rfl⟩⟩
    · exact .inr ⟨m, rest, hm, .inr ⟨by simpa using hr, h⟩⟩

/-- A step that is no reset leaves the unwritten elements alone; a reset keeps the configuration. -/
theorem step_unwritten {s t : State} (h : step s = .next t) :
    t.unwritten = s.unwritten ∨
      ∃ m rest, s.env.moments = m :: rest ∧ m.reset = true ∧ t = applyReset m rest s := by
  obtain ⟨-, hp⟩ | ⟨m, rest, hm, ⟨hr, rfl⟩ | ⟨-, hp⟩⟩ := step_next_cases h
  · exact .inl (by simpa using perform_unwritten hp)
  · exact .inr ⟨m, rest, hm, hr, rfl⟩
  · exact .inl (by simpa using perform_unwritten hp)

/-- Settles O15: a reset keeps the configuration and is shut out of the second part by its premise; every other step works through
operations that each leave the three elements alone. -/
theorem unwrittenStateFixed : Obligations.UnwrittenStateFixed := by
  intro s t h
  obtain hu | ⟨m, rest, hm, hr, rfl⟩ := step_unwritten h
  · obtain ⟨hcfg, hangle, hled⟩ : t.cfg = s.cfg ∧ t.sch.elecAngle = s.sch.elecAngle ∧ t.fm.ledOut = s.fm.ledOut := by
      simpa only [State.unwritten, Prod.mk.injEq] using hu
    exact ⟨hcfg, fun _ => ⟨hangle, hled⟩⟩
  · exact ⟨rfl, fun hno => absurd hr (by simp [hno m rest hm])⟩

end Sys2Proof.Machine
end

section
/-! SUPPORT. The filters: which samples of a channel are live after one more sample, and that a channel stays in order (10_state.md R26,
R34; 41_moving_average.md R140, R141). -/

namespace Sys2Proof.Machine

open Sys2Proof

theorem Filter.add_buf (m : Filter) (x : Fx) : (m.add x).buf = m.buf.set m.head x := by
  unfold Filter.add
  split <;> rfl

theorem Filter.add_sum (m : Filter) (x : Fx) :
    (m.add x).sum = (if m.fill = m.cap then m.sum - m.buf.getD m.head 0 else m.sum) + x := by
  unfold Filter.add
  split <;> rfl

/-- Where the buffer holds live sample number `i`, the oldest being number 0 (10_state.md R26). -/
def Filter.liveIndex (m : Filter) (i : Nat) : Nat := (m.head + m.cap - m.fill + i) % m.cap

theorem Filter.live_eq (m : Filter) : m.live = (List.range m.fill).map (fun i => m.buf.getD (m.liveIndex i) 0) := rfl

/-- The next sample goes behind the youngest. -/
theorem Filter.liveIndex_fill {m : Filter} (hfill : m.fill ≤ m.cap) (hhead : m.head < m.cap) :
    m.liveIndex m.fill = m.head := by
  have hsum : m.head + m.cap - m.fill + m.fill = m.head + m.cap := by omega
  rw [Filter.liveIndex, hsum, Nat.add_mod_right, Nat.mod_eq_of_lt hhead]

/-- A live sample is where the next one goes only if it is the oldest of a full buffer. -/
theorem Filter.liveIndex_ne_head {m : Filter} {i : Nat} (hfill : m.fill ≤ m.cap) (hhead : m.head < m.cap)
    (hi : i < m.fill) (hold : m.fill - i < m.cap) : m.liveIndex i ≠ m.head := by
  unfold Filter.liveIndex
  by_cases hwrap : m.fill - i ≤ m.head
  · have hsum : m.head + m.cap - m.fill + i = m.head - (m.fill - i) + m.cap := by omega
    rw [hsum, Nat.add_mod_right, Nat.mod_eq_of_lt (by omega)]
    omega
  · rw [Nat.mod_eq_of_lt (by omega)]
    omega

theorem Filter.add_liveIndex_of_room {m : Filter} (x : Fx) (i : Nat) (hroom : m.fill < m.cap) (hhead : m.head < m.cap) :
    (m.add x).liveIndex i = m.liveIndex i := by
  simp only [Filter.liveIndex, Filter.add_cap, Filter.add_head, Filter.add_fill, if_neg hroom.ne]
  obtain hlast | hnext : m.head + 1 = m.cap ∨ m.head + 1 < m.cap := by omega
  · have hsum : m.head + m.cap - m.fill + i = m.cap - (m.fill + 1) + i + m.cap := by omega
    rw [hsum, Nat.add_mod_right, hlast, Nat.mod_self, Nat.zero_add]
  · rw [Nat.mod_eq_of_lt hnext]
    congr 1
    omega

theorem Filter.add_liveIndex_of_full {m : Filter} (x : Fx) (i : Nat) (hfull : m.fill = m.cap) :
    (m.add x).liveIndex i = m.liveIndex (i + 1) := by
  have hnew : (m.add x).liveIndex i = ((m.head + 1) % m.cap + i) % m.cap := by
    simp [Filter.liveIndex, Filter.add_head, Filter.add_fill, hfull]
  have hold : m.liveIndex (i + 1) = (m.head + 1 + i) % m.cap := by
    simp only [Filter.liveIndex, hfull, Nat.add_sub_cancel]
    congr 1
    omega
  rw [hnew, hold, Nat.mod_add_mod]

theorem Filter.add_getD_head {m : Filter} (x : Fx) (h : m.head < m.buf.length) : (m.add x).buf.getD m.head 0 = x := by
  simp [Filter.add_buf, h]

theorem Filter.add_getD_of_ne {m : Filter} (x : Fx) {j : Nat} (h : j ≠ m.head) :
    (m.add x).buf.getD j 0 = m.buf.getD j 0 := by
  simp [Filter.add_buf, List.getElem?_set_ne h.symm]

/-- A sample into a channel with room joins the live samples as the youngest (41_moving_average.md R141). -/
theorem Filter.live_add_of_room {m : Filter} (x : Fx) (hroom : m.fill < m.cap) (hhead : m.head < m.cap)
    (hlen : m.buf.length = m.cap) : (m.add x).live = m.live ++ [x] := by
  have hold : ∀ i ∈ List.range m.fill, (m.add x).buf.getD (m.liveIndex i) 0 = m.buf.getD (m.liveIndex i) 0 := by
    intro i hi
    have hi : i < m.fill := List.mem_range.mp hi
    exact add_getD_of_ne x (liveIndex_ne_head hroom.le hhead hi (by omega))
  have hnew : (m.add x).buf.getD (m.liveIndex m.fill) 0 = x := by
    rw [liveIndex_fill hroom.le hhead, add_getD_head x (by omega)]
  simp only [Filter.live_eq, Filter.add_fill, if_neg hroom.ne, add_liveIndex_of_room x _ hroom hhead, List.range_succ,
    List.map_append, List.map_singleton, hnew, List.map_congr_left hold]

/-- A sample into a full channel takes the place of the oldest and is then the youngest (R141). -/
theorem Filter.live_add_of_full {m : Filter} (x : Fx) (hcap : 1 ≤ m.cap) (hfull : m.fill = m.cap) (hhead : m.head < m.cap)
    (hlen : m.buf.length = m.cap) : ∃ l, m.live = m.buf.getD m.head 0 :: l ∧ (m.add x).live = l ++ [x] := by
  obtain ⟨n, hn⟩ : ∃ n, m.fill = n + 1 := ⟨m.fill - 1, by omega⟩
  have holdest : m.liveIndex 0 = m.head := by
    simp [Filter.liveIndex, hfull, Nat.mod_eq_of_lt hhead]
  have hold : ∀ i ∈ List.range n, (m.add x).buf.getD (m.liveIndex (i + 1)) 0 = m.buf.getD (m.liveIndex (i + 1)) 0 := by
    intro i hi
    have hi : i < n := List.mem_range.mp hi
    exact add_getD_of_ne x (liveIndex_ne_head hfull.le hhead (by omega) (by omega))
  have hnew : (m.add x).buf.getD (m.liveIndex (n + 1)) 0 = x := by
    rw [← hn, liveIndex_fill hfull.le hhead, add_getD_head x (by omega)]
  refine ⟨(List.range n).map (fun i => m.buf.getD (m.liveIndex (i + 1)) 0), ?_, ?_⟩
  · rw [Filter.live_eq, hn, List.range_succ_eq_map, List.map_cons, List.map_map, holdest]
    rfl
  · have hfill : (m.add x).fill = n + 1 := by rw [add_fill, if_pos hfull, hn]
    simp only [Filter.live_eq, hfill, add_liveIndex_of_full x _ hfull, List.range_succ,
      List.map_append, List.map_singleton, hnew, List.map_congr_left hold]

theorem Filter.empty_ok {maxCap cap : Nat} (hpos : 1 ≤ cap) (hmax : cap ≤ maxCap) : (Filter.empty cap).Ok maxCap :=
  ⟨hpos, hmax, Nat.zero_le _, hpos, List.length_replicate, rfl⟩

/-- A sample keeps a channel in order: the sum stays the sum of the live samples (41_moving_average.md R141). -/
theorem Filter.Ok.add {maxCap : Nat} {m : Filter} (h : m.Ok maxCap) (x : Fx) : (m.add x).Ok maxCap := by
  obtain ⟨hcap, hmax, hfill, hhead, hlen, hsum⟩ := h
  have hsum' : (m.add x).sum = (m.add x).live.sum := by
    by_cases hfull : m.fill = m.cap
    · obtain ⟨l, hlive, hlive'⟩ := live_add_of_full x hcap hfull hhead hlen
      rw [add_sum, if_pos hfull, hsum, hlive, hlive', List.sum_cons, add_sub_cancel_left, List.sum_append,
        List.sum_singleton]
    · rw [add_sum, if_neg hfull, live_add_of_room x (by omega) hhead hlen, List.sum_append, List.sum_singleton, hsum]
  refine ⟨by simpa using hcap, by simpa using hmax, ?_, ?_, by simpa using hlen, hsum'⟩
  · rw [add_fill, add_cap]; split <;> omega
  · rw [add_head, add_cap]; exact Nat.mod_lt _ hcap

end Sys2Proof.Machine
end

section
/-! SUPPORT. Reset gives the state invariant and every step keeps it (10_state.md R34, 45_correction_scheduler.md R248). `KeepsInv` speaks of
one operation inside a step: it keeps every clause but the last, `CoreInv`, and the command in flight. The last clause, that a command in
flight holds its sections, is at stake only where an estimator command is attempted, and is proved there. -/

namespace Sys2Proof.Machine

open Sys2Proof

/-! ### The invariant without the command in flight -/

/-- The invariant without its clause on the command in flight: what holds before and after each operation inside a step. -/
structure CoreInv (s : State) : Prop where
  wf : s.cfg.wf = true
  filters : FiltersOk s
  pid : PidBounded s
  sched : SchedArmed s
  sizes : SizesOk s
  bus : BusIdle s

theorem stateInv_iff {s : State} : StateInv s ↔ CoreInv s ∧ BusyHolds s := by
  constructor
  · rintro ⟨hwf, hma, hpid, hsched, hsizes, hbus, hbusy⟩
    exact ⟨⟨hwf, hma, hpid, hsched, hsizes, hbus⟩, hbusy⟩
  · rintro ⟨⟨hwf, hma, hpid, hsched, hsizes, hbus⟩, hbusy⟩
    exact ⟨hwf, hma, hpid, hsched, hsizes, hbus, hbusy⟩

theorem busyHolds_of_idle {s : State} (h : s.busy = none) : BusyHolds s := by
  intro p hp
  rw [h] at hp
  cases hp

/-- From `s` to `t` the invariant is kept and the command in flight stays what it is. -/
structure KeepsInv (s t : State) : Prop where
  inv : CoreInv s → CoreInv t
  busy : t.busy = s.busy

theorem KeepsInv.refl (s : State) : KeepsInv s s := ⟨id, rfl⟩

theorem KeepsInv.trans {s t u : State} (h : KeepsInv s t) (k : KeepsInv t u) : KeepsInv s u :=
  ⟨k.inv ∘ h.inv, k.busy.trans h.busy⟩

/-- An operation that leaves the filters alone: what is at stake are the scheduler's clauses, the sizes and the lines. -/
theorem KeepsInv.of_filters_same {s t : State} (hcfg : t.cfg = s.cfg) (hma : t.ma = s.ma)
    (hpid : PidBounded s → PidBounded t) (hsched : SchedArmed s → SchedArmed t)
    (hcache : t.cache.length = s.cache.length) (htxb : t.txb.data.length = s.txb.data.length)
    (hbus : BusIdle s → BusIdle t) (hbusy : t.busy = s.busy) : KeepsInv s t := by
  refine ⟨fun hs => ⟨?_, ?_, hpid hs.pid, hsched hs.sched, ?_, hbus hs.bus⟩, hbusy⟩
  · rw [hcfg]; exact hs.wf
  · unfold FiltersOk; rw [hma, hcfg]; exact hs.filters
  · unfold SizesOk; rw [hcache, htxb, hcfg]; exact hs.sizes

/-- An operation of the fault monitor or the scheduler. -/
theorem SameOutside.keepsInv {s t : State} (h : SameOutside s t) (hpid : PidBounded s → PidBounded t)
    (hsched : SchedArmed s → SchedArmed t) : KeepsInv s t :=
  .of_filters_same h.cfg h.ma hpid hsched (by rw [h.cache]) (by rw [h.txb]) (by unfold BusIdle; rw [h.bus]; exact id) h.busy

theorem SameOutside.keepsInv_of_sch {s t : State} (h : SameOutside s t) (hsch : t.sch = s.sch) : KeepsInv s t :=
  h.keepsInv (by unfold PidBounded; rw [hsch, h.cfg]; exact id) (by unfold SchedArmed; rw [hsch]; exact id)

/-- An operation of the transport or the cache. -/
theorem SameCore.keepsInv {s t : State} (h : SameCore s t) (hcache : t.cache.length = s.cache.length)
    (htxb : t.txb.data.length = s.txb.data.length) (hbus : BusIdle s → BusIdle t) : KeepsInv s t :=
  .of_filters_same h.cfg h.ma (by unfold PidBounded; rw [h.sch, h.cfg]; exact id)
    (by unfold SchedArmed; rw [h.sch]; exact id) hcache htxb hbus h.busy

/-! ### The setters -/

theorem withCs_keepsInv (s : State) (n : BitVec 8) : KeepsInv s (s.withCs n) :=
  .of_filters_same rfl rfl id id rfl rfl id rfl

theorem withEst_keepsInv (s : State) (x : EstRegs) : KeepsInv s (s.withEst x) :=
  .of_filters_same rfl rfl id id rfl rfl id rfl

theorem withPending_keepsInv (s : State) (x : BitVec 4) : KeepsInv s (s.withPending x) :=
  .of_filters_same rfl rfl id id rfl rfl id rfl

theorem withEnv_keepsInv (s : State) (x : Env) : KeepsInv s (s.withEnv x) :=
  .of_filters_same rfl rfl id id rfl rfl id rfl

theorem respond_keepsInv (s : State) (k : Status) (d : Long) : KeepsInv s (s.respond k d) :=
  .of_filters_same rfl rfl id id rfl rfl id rfl

theorem withTxb_keepsInv {s : State} {x : Txb} (h : x.data.length = s.txb.data.length) : KeepsInv s (s.withTxb x) :=
  .of_filters_same rfl rfl id id rfl h id rfl

theorem withCache_keepsInv {s : State} {x : List (Option Word)} (h : x.length = s.cache.length) :
    KeepsInv s (s.withCache x) :=
  .of_filters_same rfl rfl id id h rfl id rfl

/-- A write of the scheduler's registers that leaves the integrator alone. -/
theorem withSch_keepsInv {s : State} {x : SchedRegs} (hpid : x.pidInteg = s.sch.pidInteg)
    (hsched : SchedArmed s → x.schedActive = true → 0 < x.schedCount.toNat) : KeepsInv s (s.withSch x) :=
  SameOutside.keepsInv ⟨rfl, rfl, rfl, rfl, rfl, rfl, rfl, rfl, rfl, rfl⟩
    (by simp only [PidBounded, State.withSch_sch, State.withSch_cfg, hpid]; exact id) hsched

/-- A channel is replaced by one in order. -/
theorem withMa_set_keepsInv {s : State} {ch : Chan} {m : Filter}
    (h : (s.ma.get ch).Ok s.cfg.maMaxCap → m.Ok s.cfg.maMaxCap) : KeepsInv s (s.withMa (s.ma.set ch m)) := by
  refine ⟨fun ⟨hwf, hma, hpid, hsched, hsizes, hbus⟩ => ⟨hwf, ?_, hpid, hsched, hsizes, hbus⟩, rfl⟩
  intro ch'
  by_cases hch : ch' = ch
  · subst hch; simpa using h (hma ch')
  · simpa [Bank.get_set_other s.ma m hch] using hma ch'

/-! ### Commands and handlers -/

theorem command_keepsInv {body : State → Except Fault (Reply × State)} {s t : State} (h : command body s = .next t)
    (hb : ∀ r u, body (s.withCs (s.csCount + 1)) = .ok (r, u) → KeepsInv (s.withCs (s.csCount + 1)) u) :
    KeepsInv s t := by
  obtain ⟨-, r, u, hu, -, rfl⟩ := command_next_iff.mp h
  exact (((withCs_keepsInv s _).trans (hb r u hu)).trans (withCs_keepsInv u _)).trans (respond_keepsInv _ _ _)

/-- A command whose body cannot fail. -/
theorem command_ok_keepsInv {reply : State → Reply} {next : State → State} {s t : State}
    (h : command (fun s1 => .ok (reply s1, next s1)) s = .next t) (hn : ∀ s1, s1.cfg = s.cfg → KeepsInv s1 (next s1)) :
    KeepsInv s t :=
  command_keepsInv h (by rintro r u ⟨⟩; exact hn _ rfl)

theorem handler_keepsInv {body : State → Except Fault State} {s t : State} (h : handler body s = .next t)
    (hb : ∀ s1 u, body s1 = .ok u → KeepsInv s1 u) : KeepsInv s t := by
  obtain ⟨-, u, hu, -, rfl⟩ := handler_next_iff.mp h
  exact ((withCs_keepsInv s _).trans (hb _ u hu)).trans (withCs_keepsInv u _)

/-- A handler whose body cannot fail. -/
theorem handler_ok_keepsInv {next : State → State} {s t : State} (h : handler (fun s1 => .ok (next s1)) s = .next t)
    (hn : ∀ s1, KeepsInv s1 (next s1)) : KeepsInv s t :=
  handler_keepsInv h (by rintro s1 u ⟨⟩; exact hn s1)

theorem refuseCommand_keepsInv {k : Status} {s t : State} (h : refuseCommand k s = .next t) : KeepsInv s t := by
  cases h
  exact respond_keepsInv s k 0

/-! ### The transport and the register protocol -/

theorem overlay_length {d old : List Word} (h : d.length ≤ old.length) : (overlay d old).length = old.length := by
  simp [overlay, h]

/-- A read transaction replaces at most the 15 words the buffer has (20_memory.md R67). -/
theorem memRead_keepsInv (reg : RegNum) (n : BitVec 4) (safe : Bool) (s : State) :
    KeepsInv s (memRead reg n safe s).2 := by
  have hn : n.toNat < 16 := n.isLt
  have hcore := memRead_sameCore reg n safe s
  refine ⟨fun hs => (hcore.keepsInv (by rw [memRead_cache]) ?_ fun _ => memRead_bus reg n safe s).inv hs, hcore.busy⟩
  rw [memRead_txb]
  exact overlay_length (by rw [memRead_length, hs.sizes.2]; omega)

theorem memWrite_keepsInv (reg : RegNum) (v : Word) (s : State) : KeepsInv s (memWrite reg v s) :=
  (memWrite_sameCore reg v s).keepsInv (by simp) (by simp) fun hbus => by rw [BusIdle, memWrite_bus, hbus]

theorem safetyReset_keepsInv (s : State) : KeepsInv s (safetyReset s) :=
  (safetyReset_sameCore s).keepsInv (by simp) (by simp) (fun _ => safetyReset_bus s)

theorem setSlot_keepsInv (s : State) (i : Byte) (w : Word) : KeepsInv s (s.setSlot i w) :=
  withCache_keepsInv List.length_set

theorem updateCache_keepsInv (reg : RegNum) (d : List Word) (s : State) : KeepsInv s (updateCache reg d s) := by
  rw [updateCache_eq]
  exact withCache_keepsInv (updateCache_cache_length reg d s)

theorem validateAndReset_keepsInv (s : State) : KeepsInv s (validateAndReset s).2 := by
  unfold validateAndReset
  dsimp only
  split_ifs
  · exact safetyReset_keepsInv s
  · exact .refl s

theorem readThenCache_keepsInv (reg : RegNum) (n : BitVec 4) (safe : Bool) (s : State) :
    KeepsInv s (readThenCache reg n safe s) :=
  (memRead_keepsInv reg n safe s).trans (updateCache_keepsInv reg _ _)

theorem readRegister_keepsInv {reg : RegNum} {n : BitVec 4} {safe : Bool} {s t : State} {r : List Word × Status}
    (h : readRegister reg n safe s = .ok (r, t)) : KeepsInv s t := by
  unfold readRegister at h
  obtain ⟨-, u, hu, -, rfl⟩ := inSection_ok_iff.mp h
  have hread := (withCs_keepsInv s (s.csCount + 1)).trans (readThenCache_keepsInv reg n safe _)
  refine KeepsInv.trans ?_ (withCs_keepsInv u _)
  dsimp only at hu
  split_ifs at hu
  · cases hu; exact hread.trans (validateAndReset_keepsInv _)
  · cases hu; exact hread

theorem readBody_keepsInv {reg : RegNum} {n : BitVec 4} {safe : Bool} {data : List Word → Long} {s t : State} {r : Reply}
    (h : readBody reg n safe data s = .ok (r, t)) : KeepsInv s t := by
  unfold readBody at h
  split at h
  next => cases h
  next hr => cases h; exact readRegister_keepsInv hr

theorem getField_keepsInv {f : Descriptor} {s t : State} {r : Reply} (h : getField f s = .ok (r, t)) : KeepsInv s t := by
  unfold getField at h
  split at h
  next =>
    split at h
    next => cases h
    next hr =>
      split at h
      next => cases h
      next => cases h; exact readRegister_keepsInv hr
  next => cases h; exact .refl _

theorem setField_keepsInv {f : Descriptor} {x : Word} {s t : State} {r : Reply} (h : setField f x s = .ok (r, t)) :
    KeepsInv s t := by
  unfold setField at h
  split at h
  next =>
    split at h
    next => cases h
    next => cases h; exact (setSlot_keepsInv s _ _).trans (memWrite_keepsInv _ _ _)
  next => cases h; exact .refl _

theorem Txb.write_length (b : Txb) (e : TxbElem) (v : Word) : (b.write e v).data.length = b.data.length := by
  cases e with
  | data i => exact List.length_set
  | cmd | safety | count => rfl

/-! ### The fault monitor -/

theorem applySetState_sch (st : MotorState) (clr : Bool) (s : State) : (applySetState st clr s).sch = s.sch := by
  unfold applySetState
  split_ifs <;> simp

theorem otEval_keepsInv (x : Fx) (now : U32) (s : State) : KeepsInv s (otEval x now s) :=
  (otEval_outside x now s).keepsInv_of_sch (otEval_sch x now s)

theorem applySetState_keepsInv (st : MotorState) (clr : Bool) (s : State) : KeepsInv s (applySetState st clr s) :=
  (applySetState_outside st clr s).keepsInv_of_sch (applySetState_sch st clr s)

theorem setMotorState_keepsInv (st : MotorState) (clr : Bool) (s : State) : KeepsInv s (setMotorState st clr s) :=
  (setMotorState_outside st clr s).keepsInv_of_sch (setMotorState_sch st clr s)

/-! ### The correction scheduler -/

theorem issueStep_keepsInv (dir : Dir) (upd : Bool) (s : State) : KeepsInv s (issueStep dir upd s) :=
  (issueStep_outside dir upd s).keepsInv id id

/-- A countdown that reaches 0 disarms the schedule (45_correction_scheduler.md R247, R248). -/
theorem schedFire_keepsInv (s : State) : KeepsInv s (schedFire s) := by
  refine (issueStep_keepsInv s.sch.schedDir s.cfg.schedUpdateDesired s).trans (withSch_keepsInv rfl fun _ hactive => ?_)
  simp only [Bool.and_eq_true, bne_iff_ne, ne_eq] at hactive
  obtain ⟨-, hcount⟩ := hactive
  exact Nat.pos_of_ne_zero fun h0 => hcount (BitVec.eq_of_toNat_eq h0)

/-- Every PID law gives an integrator inside the limit (45_correction_scheduler.md R240; log 3). -/
theorem pidLaw_integ_bounds (c : Cfg) (e integ prev : Int) :
    -(c.pidILimit : Int) ≤ (pidLaw c e integ prev).2.1 ∧ (pidLaw c e integ prev).2.1 ≤ c.pidILimit := by
  unfold pidLaw
  split <;> exact clamp_bounds (by omega)

/-- The fine timer is armed without a write of the integrator or the schedule (45_correction_scheduler.md R241). -/
theorem armFine_frame (c : Cfg) (out : Fx) (r : SchedRegs) :
    (armFine c out r).pidInteg = r.pidInteg ∧ (armFine c out r).schedActive = r.schedActive ∧
      (armFine c out r).schedCount = r.schedCount := by
  unfold armFine
  dsimp only
  split_ifs <;> exact ⟨rfl, rfl, rfl⟩

theorem pidStep_keepsInv {e : Int} {s t : State} (h : pidStep e s = .ok t) : KeepsInv s t := by
  obtain ⟨houtside, -, -⟩ := pidStep_outside h
  obtain ⟨-, rfl⟩ := pidStep_ok_iff.mp h
  refine houtside.keepsInv (fun _ => ?_) ?_
  · simp only [PidBounded, State.withSch_sch, State.withSch_cfg, (armFine_frame _ _ _).1]
    exact storeInteg_bounds (pidLaw_integ_bounds _ _ _ _)
  · simp only [SchedArmed, State.withSch_sch, (armFine_frame _ _ _).2]
    exact id

theorem correct_keepsInv {e : Int} {s t : State} (h : correct e s = .ok t) : KeepsInv s t := by
  unfold correct at h
  split at h
  next => cases h; exact issueStep_keepsInv _ _ s
  next => exact pidStep_keepsInv h

theorem tickCorrection_keepsInv {s t : State} (h : tickCorrection s = .ok t) : KeepsInv s t := by
  unfold tickCorrection at h
  dsimp only at h
  split_ifs at h
  · cases h; exact ((disarmFine_outside s).trans (clearStall_outside _)).keepsInv id id
  · cases hc : correct (stepError s) s with
    | error f => rw [hc] at h; cases h
    | ok u =>
      rw [hc] at h
      cases h
      exact (correct_keepsInv hc).trans ((stallEval_outside _ u).keepsInv id id)

theorem tick_keepsInv {s t : State} (h : tick s = .ok t) : KeepsInv s t := by
  unfold tick at h
  split_ifs at h
  · cases h; exact .refl _
  · cases h; exact .refl _
  · cases h; exact (setMotorState_keepsInv _ _ s).trans ((setStallOut_outside _ _).keepsInv id id)
  · exact tickCorrection_keepsInv h
  · exact (setMotorState_keepsInv _ _ s).trans (tickCorrection_keepsInv h)

/-! ### The motion estimator -/

theorem maAdd_keepsInv {ch : Chan} {x : Fx} {s t : State} (h : maAdd ch x s = .ok t) : KeepsInv s t := by
  obtain ⟨-, -, rfl⟩ := maAdd_ok_iff.mp h
  exact withMa_set_keepsInv fun hok => hok.add x

theorem angleSample_keepsInv {w : Word} {s t : State} {a : Fx} (h : angleSample w s = .ok (a, t)) : KeepsInv s t := by
  unfold angleSample at h
  split at h
  next => cases h
  next hm => cases h; exact maAdd_keepsInv hm

theorem absAngleSample_keepsInv {rev w : Word} {s t : State} {a : Fx} (h : absAngleSample rev w s = .ok (a, t)) :
    KeepsInv s t := by
  unfold absAngleSample at h
  split at h
  next => cases h
  next hs =>
    split at h
    next => cases h
    next =>
      split at h
      next => cases h
      next hm => cases h; exact (angleSample_keepsInv hs).trans (maAdd_keepsInv hm)

theorem derivative_keepsInv {ch : Chan} {a : Fx} {num den : Int} {now : U32} {s t : State} {r : Reply}
    (h : derivative ch a num den now s = .ok (r, t)) : KeepsInv s t := by
  unfold derivative at h
  split at h
  next => cases h
  next =>
    split at h
    next => cases h
    next hm => cases h; exact (maAdd_keepsInv hm).trans (withEst_keepsInv _ _)

/-- The end of an estimator command, its words read: samples into channels, the estimator's registers, the temperature's
evaluation (43_motion_estimator.md R181 to R193). -/
theorem finishOp_keepsInv {op : EstOp} {now : U32} {rev : Word} {d : List Word} {s t : State} {r : Reply}
    (h : finishOp op now rev d s = .ok (r, t)) : KeepsInv s t := by
  cases op with
  | angle u =>
    simp only [finishOp, finishAngle] at h
    split at h
    next => cases h
    next hs => cases h; exact angleSample_keepsInv hs
  | arev => cases h; exact .refl _
  | aangle =>
    simp only [finishOp, finishAangle] at h
    split at h
    next => cases h
    next hs => cases h; exact absAngleSample_keepsInv hs
  | speedDiff =>
    simp only [finishOp, finishSpeedDiff] at h
    split_ifs at h
    split at h
    next => cases h
    next hs => exact (absAngleSample_keepsInv hs).trans (derivative_keepsInv h)
  | speedReg =>
    simp only [finishOp, finishSpeedReg] at h
    split at h
    next => cases h
    next hm => cases h; exact maAdd_keepsInv hm
  | accel =>
    simp only [finishOp, finishAccel] at h
    split_ifs at h
    split at h
    next => cases h
    next hs => exact (absAngleSample_keepsInv hs).trans (derivative_keepsInv h)
  | temp =>
    simp only [finishOp, finishTemp] at h
    split at h
    next => cases h
    next hm => cases h; exact (maAdd_keepsInv hm).trans (otEval_keepsInv _ _ _)
  | zero =>
    simp only [finishOp, finishZero] at h
    split at h
    next => cases h
    next hs =>
      split at h
      next => cases h
      next => cases h; exact (angleSample_keepsInv hs).trans (withEst_keepsInv _ _)

/-! ### A command in flight -/

/-- A change of the command in flight says nothing to the rest of the invariant. -/
theorem CoreInv.withBusy {s : State} (h : CoreInv s) (x : Option InFlight) : CoreInv (s.withBusy x) :=
  ⟨h.wf, h.filters, h.pid, h.sched, h.sizes, h.bus⟩

theorem KeepsInv.stateInv {s t : State} (h : KeepsInv s t) (hs : CoreInv s) (hidle : s.busy = none) : StateInv t :=
  stateInv_iff.mpr ⟨h.inv hs, busyHolds_of_idle (h.busy.trans hidle)⟩

/-- A command that ends is in flight no more. -/
theorem endCommand_stateInv {op : EstOp} {r : Reply} {s t : State} (h : endCommand op r s = .next t) (hs : CoreInv s) :
    StateInv t := by
  unfold endCommand at h
  split at h
  next => cases h
  next hx =>
    obtain ⟨-, rfl⟩ := csExitMany_ok_iff.mp hx
    cases h
    exact ((withCs_keepsInv _ _).trans (respond_keepsInv _ _ _)).stateInv (hs.withBusy none) rfl

/-- A command that goes on waiting holds the sections it entered. -/
theorem afterFailure_stateInv {p : InFlight} {s t : State} (h : afterFailure p s = .next t) (hs : CoreInv s)
    (hdepth : p.op.depth ≤ s.csCount.toNat) : StateInv t := by
  have again : StateInv (s.withBusy (some { p with fails := p.fails + 1 })) :=
    stateInv_iff.mpr ⟨hs.withBusy _, by rintro q ⟨⟩; exact hdepth⟩
  unfold afterFailure at h
  dsimp only at h
  split at h
  next => cases h; exact again
  next =>
    split_ifs at h
    · exact endCommand_stateInv h hs
    · cases h; exact again

theorem attemptLast_stateInv {p : InFlight} {rev : Word} {s t : State} (h : attemptLast p rev s = .next t)
    (hs : CoreInv s) (hdepth : p.op.depth ≤ s.csCount.toNat) : StateInv t := by
  unfold attemptLast at h
  dsimp only at h
  split at h
  next => cases h
  next hr =>
    have hread := (readRegister_keepsInv hr).inv hs
    obtain ⟨-, hcore, -⟩ := readRegister_ok hr
    split_ifs at h
    · split at h
      next => cases h
      next hf => exact endCommand_stateInv h ((finishOp_keepsInv hf).inv hread)
    · exact afterFailure_stateInv h hread (by rw [hcore.csCount]; exact hdepth)

/-- An attempt of a command that holds its sections ends in the invariant, whether the command ends or goes on waiting. -/
theorem attempt_stateInv {p : InFlight} {s t : State} (h : attempt p s = .next t) (hs : CoreInv s)
    (hdepth : p.op.depth ≤ s.csCount.toNat) : StateInv t := by
  unfold attempt at h
  split at h
  next =>
    split at h
    next => cases h
    next hr =>
      have hread := (readRegister_keepsInv hr).inv hs
      obtain ⟨-, hcore, -⟩ := readRegister_ok hr
      rw [← hcore.csCount] at hdepth
      split_ifs at h
      · exact attemptLast_stateInv h hread hdepth
      · exact afterFailure_stateInv h hread hdepth
  next => exact attemptLast_stateInv h hs hdepth
  next => exact attemptLast_stateInv h hs hdepth

theorem startCommand_stateInv {op : EstOp} {s t : State} (h : startCommand op s = .next t) (hs : CoreInv s) :
    StateInv t := by
  unfold startCommand at h
  split at h
  next => cases h
  next he =>
    obtain ⟨hroom, rfl⟩ := csEnterMany_ok_iff.mp he
    refine attempt_stateInv h ((withCs_keepsInv s _).inv hs) ?_
    simp only [State.withCs_csCount, BitVec.toNat_add, BitVec.toNat_ofNat]
    omega

/-! ### The instructions with a choice of their own -/

theorem execCsenter_keepsInv {s t : State} (h : execCsenter s = .next t) : KeepsInv s t := by
  unfold execCsenter at h
  split at h
  next => cases h
  next he =>
    obtain ⟨-, rfl⟩ := csEnter_ok_iff.mp he
    cases h
    exact (withCs_keepsInv s _).trans (respond_keepsInv _ _ _)

theorem execCsexit_keepsInv {s t : State} (h : execCsexit s = .next t) : KeepsInv s t := by
  unfold execCsexit at h
  split at h
  next => cases h
  next he =>
    obtain ⟨-, rfl⟩ := csExit_ok_iff.mp he
    cases h
    exact (withCs_keepsInv s _).trans (respond_keepsInv _ _ _)

theorem execMacfg_keepsInv {ch : Chan} {cap : Word} {s t : State} (h : execMacfg ch cap s = .next t) : KeepsInv s t := by
  unfold execMacfg at h
  split_ifs at h with hcap
  · refine command_ok_keepsInv h fun s1 hcfg => withMa_set_keepsInv fun _ => ?_
    rw [hcfg]
    exact Filter.empty_ok hcap.1 hcap.2
  · exact refuseCommand_keepsInv h

theorem execMaadd_keepsInv {ch : Chan} {x : U32} {s t : State} (h : execMaadd ch x s = .next t) : KeepsInv s t := by
  refine command_keepsInv h fun r u hb => ?_
  split at hb
  next => cases hb
  next hm => cases hb; exact maAdd_keepsInv hm

theorem execRdburst_keepsInv {safe : Bool} {reg : RegNum} {n : BitVec 4} {s t : State}
    (h : execRdburst safe reg n s = .next t) : KeepsInv s t := by
  unfold execRdburst at h
  split_ifs at h
  · exact refuseCommand_keepsInv h
  · exact command_keepsInv h fun _ _ => readBody_keepsInv

theorem execGetbf_keepsInv {idx : Byte} {s t : State} (h : execGetbf idx s = .next t) : KeepsInv s t := by
  unfold execGetbf at h
  split at h
  next => exact refuseCommand_keepsInv h
  next => exact command_keepsInv h fun _ _ => getField_keepsInv

theorem execSetbf_keepsInv {idx : Byte} {v : Word} {s t : State} (h : execSetbf idx v s = .next t) : KeepsInv s t := by
  unfold execSetbf at h
  split at h
  next => exact refuseCommand_keepsInv h
  next => exact command_keepsInv h fun _ _ => setField_keepsInv

theorem execTxbld_keepsInv {e : TxbElem} {v : Word} {s t : State} (h : execTxbld e v s = .next t) : KeepsInv s t := by
  unfold execTxbld at h
  split_ifs at h
  · exact command_ok_keepsInv h fun s1 _ => withTxb_keepsInv (Txb.write_length s1.txb e v)
  · exact refuseCommand_keepsInv h

/-- A schedule is armed only with a count above 0 (45_correction_scheduler.md R246, R248). -/
theorem execSched_keepsInv {dir : Dir} {rate : Word} {n : U32} {s t : State} (h : execSched dir rate n s = .next t) :
    KeepsInv s t := by
  unfold execSched at h
  split_ifs at h
  · exact refuseCommand_keepsInv h
  · exact refuseCommand_keepsInv h
  · exact command_ok_keepsInv h fun s1 _ => withSch_keepsInv rfl fun _ => of_decide_eq_true

theorem execSpeed_stateInv {s t : State} (h : execSpeed s = .next t) (hs : CoreInv s) : StateInv t := by
  unfold execSpeed at h
  split at h
  next => exact startCommand_stateInv h hs
  next => exact startCommand_stateInv h hs

theorem execTemp_stateInv {s t : State} (h : execTemp s = .next t) (hs : CoreInv s) : StateInv t := by
  unfold execTemp at h
  split_ifs at h
  exact startCommand_stateInv h hs

theorem execEvFine_keepsInv {s t : State} (h : execEvFine s = .next t) : KeepsInv s t := by
  refine handler_ok_keepsInv h fun s1 => ?_
  split_ifs
  · exact issueStep_keepsInv _ _ s1
  · exact .refl s1

theorem execEvSched_keepsInv {s t : State} (h : execEvSched s = .next t) : KeepsInv s t := by
  refine handler_ok_keepsInv h fun s1 => ?_
  split_ifs
  · exact schedFire_keepsInv s1
  · exact .refl s1

/-! ### Every instruction, and the step -/

/-- An instruction that starts with no command in flight ends in the invariant: an estimator command may be waiting then,
every other instruction leaves none in flight. -/
theorem exec_stateInv {i : Instr} {s t : State} (h : exec i s = .next t) (hs : CoreInv s) (hidle : s.busy = none) :
    StateInv t := by
  cases i with
  | speed => exact execSpeed_stateInv h hs
  | temp => exact execTemp_stateInv h hs
  | angle | arev | aangle | accel | zero => exact startCommand_stateInv h hs
  | csenter => exact (execCsenter_keepsInv h).stateInv hs hidle
  | csexit => exact (execCsexit_keepsInv h).stateInv hs hidle
  | macfg => exact (execMacfg_keepsInv h).stateInv hs hidle
  | maadd => exact (execMaadd_keepsInv h).stateInv hs hidle
  | rdreg => exact (command_keepsInv h fun _ _ => readBody_keepsInv).stateInv hs hidle
  | rdburst => exact (execRdburst_keepsInv h).stateInv hs hidle
  | wrreg => exact (command_ok_keepsInv h fun s1 _ => memWrite_keepsInv _ _ s1).stateInv hs hidle
  | getbf => exact (execGetbf_keepsInv h).stateInv hs hidle
  | setbf => exact (execSetbf_keepsInv h).stateInv hs hidle
  | valsafe => exact (command_ok_keepsInv h fun s1 _ => validateAndReset_keepsInv s1).stateInv hs hidle
  | sreset => exact (command_ok_keepsInv h fun s1 _ => safetyReset_keepsInv s1).stateInv hs hidle
  | txbld => exact (execTxbld_keepsInv h).stateInv hs hidle
  | sched => exact (execSched_keepsInv h).stateInv hs hidle
  | setstate => exact (command_ok_keepsInv h fun s1 _ => applySetState_keepsInv _ _ s1).stateInv hs hidle
  | setofs => exact (command_ok_keepsInv h fun s1 _ => withEst_keepsInv s1 _).stateInv hs hidle
  | setcur =>
    refine (command_ok_keepsInv h fun s1 _ => ?_).stateInv hs hidle
    exact SameOutside.keepsInv_of_sch ⟨rfl, rfl, rfl, rfl, rfl, rfl, rfl, rfl, rfl, rfl⟩ rfl
  | setdes | setpos | cten =>
    exact (command_ok_keepsInv h fun s1 _ => withSch_keepsInv rfl id).stateInv hs hidle
  | maval | txbrd | getstate | getcur | geterr | getpos =>
    exact (command_ok_keepsInv h fun s1 _ => .refl s1).stateInv hs hidle
  | evStepedge => exact (handler_ok_keepsInv h fun s1 => withSch_keepsInv rfl id).stateInv hs hidle
  | evSched => exact (execEvSched_keepsInv h).stateInv hs hidle
  | evTick => exact (handler_keepsInv h fun _ _ => tick_keepsInv).stateInv hs hidle
  | evFine => exact (execEvFine_keepsInv h).stateInv hs hidle

theorem acceptWord_keepsInv (cw : Long) (rest : List Long) (s : State) : KeepsInv s (acceptWord cw rest s).2 := by
  unfold acceptWord
  dsimp only
  split <;> exact withEnv_keepsInv s _

/-- A command word on the port never resumes a command. -/
theorem acceptWord_ne_resume (cw : Long) (rest : List Long) (s : State) (p : InFlight) :
    (acceptWord cw rest s).1 ≠ .resume p := by
  unfold acceptWord
  dsimp only
  split <;> exact Work.noConfusion

/-- Everything R267 can choose: the command in flight goes on from the state as it is, or there is none and the pending bits
and the port alone have moved. -/
theorem nextWork_cases (s : State) :
    (∃ p, s.busy = some p ∧ nextWork s = (.resume p, s)) ∨
      s.busy = none ∧ KeepsInv s (nextWork s).2 ∧ ∀ p, (nextWork s).1 ≠ .resume p := by
  unfold nextWork
  split
  next p hp => exact .inl ⟨p, hp, rfl⟩
  next hidle =>
    refine .inr ⟨hidle, ?_⟩
    split
    next => exact ⟨withPending_keepsInv s _, fun _ => Work.noConfusion⟩
    next =>
      split
      next => exact ⟨.refl s, fun _ => Work.noConfusion⟩
      next cw rest _ => exact ⟨acceptWord_keepsInv cw rest s, acceptWord_ne_resume cw rest s⟩

/-- Work that resumes no command, done with no command in flight. -/
theorem perform_stateInv {w : Work × State} {t : State} (h : perform w = .next t) (hs : CoreInv w.2)
    (hidle : w.2.busy = none) (hw : ∀ p, w.1 ≠ .resume p) : StateInv t := by
  obtain ⟨work, s⟩ := w
  cases work with
  | resume p => exact absurd rfl (hw p)
  | run i => exact exec_stateInv h hs hidle
  | refuse k => exact (refuseCommand_keepsInv h).stateInv hs hidle
  | idle => cases h; exact (KeepsInv.refl s).stateInv hs hidle

theorem perform_nextWork_stateInv {s t : State} (h : perform (nextWork s) = .next t) (hs : StateInv s) : StateInv t := by
  obtain ⟨hcore, hbusy⟩ := stateInv_iff.mp hs
  obtain ⟨p, hp, hwork⟩ | ⟨hidle, hkeeps, hwork⟩ := nextWork_cases s
  · rw [hwork] at h
    exact attempt_stateInv h hcore (hbusy p hp)
  · exact perform_stateInv h (hkeeps.inv hcore) (hkeeps.busy.trans hidle) hwork

theorem arrive_stateInv (m : Moment) (rest : List Moment) {s : State} (hs : StateInv s) : StateInv (arrive m rest s) := by
  obtain ⟨hcore, hbusy⟩ := stateInv_iff.mp hs
  exact stateInv_iff.mpr ⟨((withEnv_keepsInv s _).trans (withPending_keepsInv _ _)).inv hcore, hbusy⟩

/-! ### Reset -/

theorem State.resetIn_ma_get (c : Cfg) (e : Env) (ch : Chan) :
    (State.resetIn c e).ma.get ch = Filter.empty (c.maCap.get ch) := by
  cases ch <;> rfl

/-- A well-formed configuration gives every channel a legal capacity (00_scope.md R7). -/
theorem Cfg.wf_maCap {c : Cfg} (h : c.wf = true) (ch : Chan) : 1 ≤ c.maCap.get ch ∧ c.maCap.get ch ≤ c.maMaxCap := by
  simp only [Cfg.wf, Cfg.wfEstimator, Bool.and_eq_true, List.all_eq_true, decide_eq_true_eq] at h
  obtain ⟨⟨-, ⟨⟨⟨⟨⟨⟨-, hcap⟩, -⟩, -⟩, -⟩, -⟩, -⟩⟩, -⟩ := h
  exact hcap ch (by cases ch <;> simp)

theorem resetIn_stateInv {c : Cfg} (e : Env) (h : c.wf = true) : StateInv (State.resetIn c e) := by
  refine stateInv_iff.mpr ⟨⟨h, fun ch => ?_, ?_, ?_, ?_, rfl⟩, busyHolds_of_idle rfl⟩
  · rw [State.resetIn_ma_get]
    exact Filter.empty_ok (Cfg.wf_maCap h ch).1 (Cfg.wf_maCap h ch).2
  · exact ⟨by simp [State.resetIn], by simp [State.resetIn]⟩
  · rintro ⟨⟩
  · exact ⟨List.length_replicate, List.length_replicate⟩

theorem Config.default_wf : Config.default.wf = true := by decide

/-! ### The two statements -/

/-- Settles O14: a reset gives the invariant outright; otherwise what arrives keeps it, and so does the work that comes next, which
either resumes the command in flight inside its sections or runs with no command in flight. -/
theorem invKeptByStep : Obligations.InvKeptByStep := by
  intro s t hs h
  obtain ⟨-, hp⟩ | ⟨m, rest, -, ⟨-, rfl⟩ | ⟨-, hp⟩⟩ := step_next_cases h
  · exact perform_nextWork_stateInv hp hs
  · exact resetIn_stateInv _ (stateInv_iff.mp hs).1.wf
  · exact perform_nextWork_stateInv hp (arrive_stateInv m rest hs)

/-- Settles O13. -/
theorem invAtReset : Obligations.InvAtReset :=
  ⟨fun _ e h => resetIn_stateInv e h, resetIn_stateInv Env.quiet Config.default_wf⟩

end Sys2Proof.Machine
end

section
/-! SUPPORT. The reset values, and what a step does where a moment arrives (10_state.md R32, R37, R39). -/

namespace Sys2Proof.Machine

open Sys2Proof

/-- Settles O11: each element is read off the reset state; the channels are those of `MaConfigure`. -/
theorem resetValues : Obligations.ResetValues := by
  intro c e
  have hma : ∀ ch, (State.resetIn c e).ma.get ch = ⟨c.maCap.get ch, 0, 0, 0, List.replicate (c.maCap.get ch) 0⟩ :=
    State.resetIn_ma_get c e
  exact ⟨rfl, rfl, rfl, rfl, rfl, rfl, rfl, rfl, rfl, rfl, rfl, rfl, rfl, rfl, rfl, rfl, rfl, rfl, rfl, rfl, rfl, rfl, rfl,
    rfl, rfl, rfl, hma, rfl, rfl, rfl, rfl, rfl, rfl⟩

/-- A step at which a moment without reset arrives works from the state the moment leaves (10_state.md R37). -/
theorem step_of_arrival {s : State} {m : Moment} {rest : List Moment} (hwf : s.cfg.wf = true)
    (hm : s.env.moments = m :: rest) (hr : m.reset = false) : step s = perform (nextWork (arrive m rest s)) := by
  simp [step, hwf, hm, hr]

/-- Settles O8: the arrival is the state written out, and a bit of the merged requests is set where either vector has it. -/
theorem stepTakesArrivals : Obligations.StepTakesArrivals := by
  intro s m rest hwf hm hr
  refine ⟨step_of_arrival hwf hm hr, fun k => ?_⟩
  rw [BitVec.getLsbD_or, Bool.or_eq_true]

end Sys2Proof.Machine
end

section
/-! SUPPORT. The three transactions as a whole: their operations, the words received and the state they leave (20_memory.md R66 to
R69). -/

namespace Sys2Proof.Machine

open Sys2Proof

/-! ### The answers to a run of exchanges (R66) -/

theorem nextAnswer_eq (e : Env) : nextAnswer e = answerAt e 0 := by
  unfold nextAnswer answerAt
  cases e.answers <;> rfl

theorem afterAnswer_eq (e : Env) : afterAnswer e = answered 1 e := by
  simp [afterAnswer, answered]

@[simp] theorem answered_zero (e : Env) : answered 0 e = e := rfl

@[simp] theorem answered_answered (m n : Nat) (e : Env) : answered n (answered m e) = answered (m + n) e := by
  simp [answered, Nat.add_assoc]

@[simp] theorem answerAt_answered (m k : Nat) (e : Env) : answerAt (answered m e) k = answerAt e (m + k) := by
  simp [answerAt, answered, Nat.add_assoc]

@[simp] theorem wordAt_answered (m k : Nat) (e : Env) : wordAt (answered m e) k = wordAt e (m + k) := by
  simp [wordAt]

@[simp] theorem exchanged_answered (m k : Nat) (w : Word) (e : Env) :
    exchanged (answered m e) k w = exchanged e (m + k) w := by
  simp [exchanged]

/-! ### Exchanges in a row -/

/-- An exchange: the word received, its entry in the trace, one answer taken. -/
theorem xferWord_eq (w : Word) (s : State) :
    xferWord w s = (wordAt s.env 0, { s with trace := s.trace ++ [exchanged s.env 0 w], env := answered 1 s.env }) := by
  simp only [xferWord, xfer, nextAnswer_eq, afterAnswer_eq]
  rfl

/-- Blank exchanges in a row: the words received in order, each exchange recorded with its answer (R67). -/
theorem readBlanks_eq (n : Nat) (s : State) :
    readBlanks n s = ((List.range n).map (wordAt s.env),
      { s with
        trace := s.trace ++ (List.range n).map (fun i => exchanged s.env i s.cfg.blankWord)
        env := answered n s.env }) := by
  induction n generalizing s with
  | zero => simp [readBlanks]
  | succ n ih =>
    simp [readBlanks, xferWord_eq, ih, List.range_succ_eq_map, Function.comp_def, Nat.add_comm]

/-! ### The transactions -/

/-- The opening of a transaction that reads (R67, R69). -/
theorem beginRead_eq (w : Word) (s : State) :
    beginRead w s =
      { s with
        bus := ⟨true, .openDrain⟩
        trace := s.trace ++ [.selAssert, exchanged s.env 0 w, .busMode .openDrain]
        env := answered 1 s.env } := by
  simp [beginRead, xferWord_eq, selAssert, setBusMode, State.withBus, State.emit]

/-- The close of a transaction that reads (R67, R69). -/
theorem endRead_eq (s : State) :
    endRead s = { s with bus := ⟨false, .pushPull⟩, trace := s.trace ++ [.busMode .pushPull, .selDeassert] } := by
  simp [endRead, selDeassert, setBusMode, State.withBus, State.emit]

/-- A read transaction performs the operations of R67, answers the words it received and leaves the state of the rule. -/
theorem memRead_eq (reg : RegNum) (n : BitVec 4) (safe : Bool) (s : State) :
    memRead reg n safe s =
      ((readWords n.toNat s.env, wordAt s.env (n.toNat + 1)), afterMemRead reg n safe s) := by
  have hshift : ∀ i, 1 + i = i + 1 := Nat.add_comm 1
  simp [memRead, beginRead_eq, readBlanks_eq, xferWord_eq, endRead_eq, afterMemRead, readWords, readItems, Txb.record,
    overlay, State.withTxb, List.range_succ, hshift]

/-- A write transaction performs the operations of R68 and leaves the state of the rule. -/
theorem memWrite_eq (reg : RegNum) (v : Word) (s : State) : memWrite reg v s = afterMemWrite reg v s := by
  simp [memWrite, xferWord_eq, selAssert, selDeassert, afterMemWrite, State.withBus, State.emit]

/-- A safety reset performs the operations of R69 and leaves the state of the rule. -/
theorem safetyReset_eq (s : State) : safetyReset s = afterSafetyReset s := by
  simp [safetyReset, beginRead_eq, readBlanks_eq, endRead_eq, afterSafetyReset, List.range_succ]

/-! ### The address word and the buffer -/

/-- The address word as a number (30_encoding.md R96). -/
theorem addrWord_toNat (rw safe : Bool) (reg : RegNum) (len : BitVec 4) :
    (addrWord rw safe reg len).toNat = rw.toNat * 2 ^ 15 + safe.toNat * 2 ^ 14 + reg.toNat * 2 ^ 4 + len.toNat := by
  have hlen := len.isLt
  have hreg := reg.isLt
  simp only [addrWord, BitVec.toNat_append, BitVec.toNat_ofBool]
  rw [← Nat.shiftLeft_add_eq_or_of_lt (by omega), ← Nat.shiftLeft_add_eq_or_of_lt (by omega),
    ← Nat.shiftLeft_add_eq_or_of_lt (by cases safe <;> decide)]
  simp only [Nat.shiftLeft_eq]
  omega

/-- The entries of the buffer after a read of `n` words: the words in front, the old entries behind them (R67). -/
theorem readWords_overlay_getElem? (n : Nat) (e : Env) (old : List Word) (i : Nat) :
    (readWords n e ++ old.drop n)[i]? = if i < n then some (wordAt e (i + 1)) else old[i]? := by
  split_ifs with h
  · simp [readWords, List.getElem?_append_left, h]
  · have hi : n + (i - n) = i := by omega
    simp [readWords, List.getElem?_append_right, Nat.le_of_not_lt h, hi]

/-! ### The two statements -/

/-- Settles O23: the transaction is that of the rule, and the buffer's elements are read off the state it leaves. -/
theorem readTransaction : Obligations.ReadTransaction := by
  intro reg n safe s
  rw [memRead_eq]
  refine ⟨rfl, ?_, rfl, rfl, fun i _ => readWords_overlay_getElem? _ _ _ _⟩
  simpa [afterMemRead] using addrWord_toNat true safe reg n

/-- Settles O24. -/
theorem writeAndResetTransactions : Obligations.WriteAndResetTransactions := by
  intro reg v s
  exact ⟨memWrite_eq reg v s, safetyReset_eq s, rfl, rfl, rfl, rfl, by decide⟩

end Sys2Proof.Machine
end

section
/-! SUPPORT. What an attempt of a waiting command can do, and that no other work is started meanwhile (20_memory.md R75,
43_motion_estimator.md R180). -/

namespace Sys2Proof.Machine

open Sys2Proof

/-! ### The end of an estimator command -/

theorem maAdd_moves_filters {ch : Chan} {x : Fx} {s t : State} (h : maAdd ch x s = .ok t) : ∃ b, t = s.withMa b := by
  obtain ⟨-, -, rfl⟩ := maAdd_ok_iff.mp h
  exact ⟨_, rfl⟩

theorem derivative_moves_estimator {ch : Chan} {a : Fx} {num den : Int} {now : U32} {s t : State} {r : Reply}
    (h : derivative ch a num den now s = .ok (r, t)) : ∃ b x, t = (s.withMa b).withEst x := by
  unfold derivative at h
  split at h
  next => cases h
  next =>
    split at h
    next => cases h
    next hm =>
      cases h
      obtain ⟨b, rfl⟩ := maAdd_moves_filters hm
      exact ⟨b, _, rfl⟩

/-- Everything a command can do once its words are read: it moves the filters and the estimator's registers, or it is `TEMP`, which
feeds its filter and evaluates the temperature (43_motion_estimator.md R181 to R193). -/
theorem finishOp_cases {op : EstOp} {now : U32} {rev : Word} {d : List Word} {s t : State} {r : Reply}
    (h : finishOp op now rev d s = .ok (r, t)) :
    (∃ b x, t = (s.withMa b).withEst x) ∨ ∃ b temp, t = otEval temp now (s.withMa b) := by
  cases op with
  | angle u =>
    simp only [finishOp, finishAngle] at h
    split at h
    next => cases h
    next hs =>
      cases h
      obtain ⟨b, rfl⟩ := angleSample_moves_filters hs
      exact .inl ⟨b, s.est, rfl⟩
  | arev => cases h; exact .inl ⟨s.ma, s.est, rfl⟩
  | aangle =>
    simp only [finishOp, finishAangle] at h
    split at h
    next => cases h
    next hs =>
      cases h
      obtain ⟨b, rfl⟩ := absAngleSample_moves_filters hs
      exact .inl ⟨b, s.est, rfl⟩
  | speedDiff =>
    simp only [finishOp, finishSpeedDiff] at h
    split_ifs at h
    split at h
    next => cases h
    next hs =>
      obtain ⟨_, rfl⟩ := absAngleSample_moves_filters hs
      obtain ⟨b, x, rfl⟩ := derivative_moves_estimator h
      exact .inl ⟨b, x, rfl⟩
  | speedReg =>
    simp only [finishOp, finishSpeedReg] at h
    split at h
    next => cases h
    next hm =>
      cases h
      obtain ⟨b, rfl⟩ := maAdd_moves_filters hm
      exact .inl ⟨b, s.est, rfl⟩
  | accel =>
    simp only [finishOp, finishAccel] at h
    split_ifs at h
    split at h
    next => cases h
    next hs =>
      obtain ⟨_, rfl⟩ := absAngleSample_moves_filters hs
      obtain ⟨b, x, rfl⟩ := derivative_moves_estimator h
      exact .inl ⟨b, x, rfl⟩
  | temp =>
    simp only [finishOp, finishTemp] at h
    split at h
    next => cases h
    next hm =>
      cases h
      obtain ⟨b, rfl⟩ := maAdd_moves_filters hm
      exact .inr ⟨b, _, rfl⟩
  | zero =>
    simp only [finishOp, finishZero] at h
    split at h
    next => cases h
    next hs =>
      split at h
      next => cases h
      next =>
        cases h
        obtain ⟨b, rfl⟩ := angleSample_moves_filters hs
        exact .inl ⟨b, _, rfl⟩

/-- Everything the end of an estimator command can do: the command is in flight no more, its sections are left, it responds. -/
theorem endCommand_next {op : EstOp} {r : Reply} {s t : State} (h : endCommand op r s = .next t) :
    t = ((s.withBusy none).withCs (s.csCount - BitVec.ofNat 8 op.depth)).respond r.status r.data := by
  unfold endCommand at h
  split at h
  next => cases h
  next hx =>
    obtain ⟨-, rfl⟩ := csExitMany_ok_iff.mp hx
    cases h
    rfl

/-! ### What other work stands on -/

/-- No other work is started from `s` to `t`: no event delivered, no command word accepted, nothing of the scheduler done. -/
structure NoOtherWork (s t : State) : Prop where
  pending : t.pending = s.pending
  port : t.env.port = s.env.port
  sch : t.sch = s.sch

theorem NoOtherWork.trans {s t u : State} (h : NoOtherWork s t) (k : NoOtherWork t u) : NoOtherWork s u :=
  ⟨k.pending.trans h.pending, k.port.trans h.port, k.sch.trans h.sch⟩

theorem SameCore.port {s t : State} (h : SameCore s t) : t.env.port = s.env.port := by
  obtain ⟨-, -, -, hport, -⟩ : _ ∧ _ ∧ _ ∧ t.env.port = s.env.port ∧ _ := by
    simpa only [Env.inputs, Prod.mk.injEq] using h.inputs
  exact hport

theorem SameCore.noOtherWork {s t : State} (h : SameCore s t) : NoOtherWork s t := ⟨h.pending, h.port, h.sch⟩

theorem finishOp_noOtherWork {op : EstOp} {now : U32} {rev : Word} {d : List Word} {s t : State} {r : Reply}
    (h : finishOp op now rev d s = .ok (r, t)) : NoOtherWork s t := by
  obtain ⟨b, x, rfl⟩ | ⟨b, temp, rfl⟩ := finishOp_cases h
  · exact ⟨rfl, rfl, rfl⟩
  · have hot := otEval_outside temp now (s.withMa b)
    exact ⟨hot.pending, congrArg Env.port hot.env, otEval_sch _ _ _⟩

/-! ### An attempt of the blocking read -/

/-- How an attempt of `op` with the sampled `now` may end: the command waits on with the core as it was, or it is over and no other
work was started. -/
inductive AttemptEnds (op : EstOp) (now : U32) (s : State) : State → Prop
  | waits {u : State} (rev : Option Word) (fails : Nat) (h : SameCore s u) :
      AttemptEnds op now s (u.withBusy (some ⟨op, now, rev, fails⟩))
  | ended {t : State} (hidle : t.busy = none) (h : NoOtherWork s t) : AttemptEnds op now s t

theorem AttemptEnds.after {op : EstOp} {now : U32} {s u t : State} (h : SameCore s u) (k : AttemptEnds op now u t) :
    AttemptEnds op now s t := by
  cases k with
  | waits rev fails hcore => exact .waits rev fails (h.trans hcore)
  | ended hidle hnone => exact .ended hidle (h.noOtherWork.trans hnone)

theorem endCommand_ends {op : EstOp} {r : Reply} {s u t : State} (now : U32) (hs : NoOtherWork s u)
    (h : endCommand op r u = .next t) : AttemptEnds op now s t := by
  rw [endCommand_next h]
  exact .ended rfl ⟨hs.pending, hs.port, hs.sch⟩

theorem afterFailure_ends {p : InFlight} {s t : State} (h : afterFailure p s = .next t) :
    AttemptEnds p.op p.now s t := by
  unfold afterFailure at h
  dsimp only at h
  split at h
  next => cases h; exact .waits _ _ (.refl s)
  next =>
    split_ifs at h
    · exact endCommand_ends p.now (SameCore.refl s).noOtherWork h
    · cases h; exact .waits _ _ (.refl s)

theorem attemptLast_ends {p : InFlight} {rev : Word} {s t : State} (h : attemptLast p rev s = .next t) :
    AttemptEnds p.op p.now s t := by
  unfold attemptLast at h
  dsimp only at h
  split at h
  next => cases h
  next hr =>
    obtain ⟨-, hcore, -⟩ := readRegister_ok hr
    refine .after hcore ?_
    split_ifs at h
    · split at h
      next => cases h
      next hf => exact endCommand_ends p.now (finishOp_noOtherWork hf) h
    · exact afterFailure_ends h

/-- Everything an attempt can end in (43_motion_estimator.md R180). -/
theorem attempt_ends {p : InFlight} {s t : State} (h : attempt p s = .next t) : AttemptEnds p.op p.now s t := by
  unfold attempt at h
  split at h
  next =>
    split at h
    next => cases h
    next hr =>
      obtain ⟨-, hcore, -⟩ := readRegister_ok hr
      refine .after hcore ?_
      split_ifs at h
      · exact (attemptLast_ends h :)
      · exact afterFailure_ends h
  next => exact attemptLast_ends h
  next => exact attemptLast_ends h

/-! ### The statement -/

/-- With nothing arriving, a step of a waiting command is one more attempt of it (60_exceptions.md R267). -/
theorem step_of_busy {s t : State} {p : InFlight} (hm : s.env.moments = []) (hp : s.busy = some p)
    (h : step s = .next t) : attempt p s = .next t := by
  obtain ⟨-, hwork⟩ | ⟨m, rest, hm', -⟩ := step_next_cases h
  · simpa [nextWork, hp, perform] using hwork
  · rw [hm] at hm'; cases hm'

/-- Settles O47: the step is one more attempt; either the command waits on with the core as it was, or it is over. -/
theorem busyBlocksOtherWork : Obligations.BusyBlocksOtherWork := by
  intro s t p hm hp h
  cases attempt_ends (step_of_busy hm hp h) with
  | waits rev fails hcore =>
    exact ⟨hcore.pending, hcore.port, hcore.sch, fun _ =>
      ⟨⟨_, rfl, rfl, rfl⟩, hcore.csCount, hcore.est, hcore.ma, hcore.fm⟩⟩
  | ended hidle hnone => exact ⟨hnone.pending, hnone.port, hnone.sch, fun hbusy => absurd hidle hbusy⟩

end Sys2Proof.Machine
end

section
/-! SUPPORT. The decoder and the encoder undo each other: the bits of a word that its opcode's row leaves free are exactly the bits its
operands hold (30_encoding.md R90 to R94, R106). -/

namespace Sys2Proof

/-! ### What the decoder can answer (R92) -/

/-- The word's opcode is known and every bit its row wants zero is zero (R91). -/
def FitsRow (cw : Long) : Prop := ∃ z, opcodeRow (cwOp cw) = some z ∧ z.clear cw = true

theorem ZeroMask.clear_iff {z : ZeroMask} {cw : Long} :
    z.clear cw = true ↔ cwSel cw &&& z.sel = 0 ∧ cwA cw &&& z.a = 0 ∧ cwB cw &&& z.b = 0 := by
  simp [ZeroMask.clear, and_assoc]

/-- The operands of a word with opcode `0x50` are those of `SCHED`, which no absent scheduler allows. -/
theorem schedPresent_of_operands {c : Cfg} {cw : Long} {i : Instr} (hop : cwOp cw = 0x50) (hi : operands cw = some i)
    (hwf : i.wf c = true) : c.schedPresent = true := by
  simp only [operands, hop] at hi
  cases hi
  simp only [Instr.wf, Bool.and_eq_true] at hwf
  exact hwf.1

/-- The check of `SCHED` against the configuration (R92). -/
theorem schedCheck_iff {c : Cfg} {op : Byte} :
    (op == 0x50 && !c.schedPresent) = true ↔ op = 0x50 ∧ c.schedPresent = false := by
  rw [Bool.and_eq_true, beq_iff_eq, Bool.not_eq_true']

/-- A word decodes to an instruction exactly where its opcode has a row, the row's must-be-zero bits are zero, and its operands are
those of the instruction and in range (R92). -/
theorem decode_eq_instr_iff {c : Cfg} {cw : Long} {i : Instr} :
    decode c cw = .instr i ↔ FitsRow cw ∧ operands cw = some i ∧ i.wf c = true := by
  constructor
  · intro h
    unfold decode at h
    split at h
    next => cases h
    next z hrow =>
      split_ifs at h with hsched hclear
      split at h
      next => cases h
      next j hops =>
        split_ifs at h with hwf
        cases h
        exact ⟨⟨z, hrow, by simpa using hclear⟩, hops, hwf⟩
  · rintro ⟨⟨z, hrow, hclear⟩, hops, hwf⟩
    have hsched : ¬ (cwOp cw == 0x50 && !c.schedPresent) = true := by
      rw [schedCheck_iff]
      rintro ⟨hop, habsent⟩
      simp [schedPresent_of_operands hop hops hwf] at habsent
    simp only [decode, hrow, if_neg hsched, hclear, hops, if_pos hwf, Bool.not_true, Bool.false_eq_true, if_false]

/-- A word is an illegal command exactly where its opcode has no row, or asks for an absent scheduler (R92, R106). -/
theorem decode_eq_illegalCommand_iff {c : Cfg} {cw : Long} :
    decode c cw = .illegalCommand ↔ opcodeRow (cwOp cw) = none ∨ (cwOp cw = 0x50 ∧ c.schedPresent = false) := by
  rw [← schedCheck_iff]
  unfold decode
  cases opcodeRow (cwOp cw) with
  | none => exact iff_of_true rfl (.inl rfl)
  | some z =>
    by_cases hsched : (cwOp cw == 0x50 && !c.schedPresent) = true
    · exact iff_of_true (if_pos hsched) (.inr hsched)
    · refine iff_of_false ?_ (fun h => h.elim nofun hsched)
      dsimp only
      rw [if_neg hsched]
      split_ifs
      · exact nofun
      · split
        next => exact nofun
        next => split_ifs <;> exact nofun

/-! ### The opcodes that have a row (R91) -/

/-- The 32 opcodes of R91. -/
def knownOpcodes : List Nat :=
  [0x01, 0x02, 0x10, 0x11, 0x12, 0x20, 0x21, 0x22, 0x23, 0x24, 0x25, 0x26, 0x27, 0x28, 0x30, 0x31, 0x32, 0x33, 0x34, 0x35,
    0x36, 0x37, 0x40, 0x41, 0x42, 0x43, 0x50, 0x51, 0x52, 0x53, 0x54, 0x55]

theorem opcodeRow_eq_none_iff {op : Byte} : opcodeRow op = none ↔ op.toNat ∉ knownOpcodes := by
  revert op; decide

/-- The opcode is the word above bit 56 (R90). -/
theorem cwOp_toNat (cw : Long) : (cwOp cw).toNat = cw.toNat / 2 ^ 56 := by
  have := cw.isLt
  rw [cwOp, BitVec.extractLsb'_toNat, Nat.shiftRight_eq_div_pow]
  exact Nat.mod_eq_of_lt (by omega)

/-- Settles O4: the opcode is the word's top byte, and the rows of the opcode map are the 32 listed. -/
theorem illegalCommandExactly : Obligations.IllegalCommandExactly := by
  refine ⟨fun c cw => ?_, rfl⟩
  have hop : cwOp cw = 0x50 ↔ cw.toNat / 2 ^ 56 = 0x50 := by rw [← cwOp_toNat, ← BitVec.toNat_inj]; rfl
  rw [decode_eq_illegalCommand_iff, opcodeRow_eq_none_iff, cwOp_toNat, hop, knownOpcodes]

/-! ### The operands of an encoded instruction (R91, R94) -/

/-- The encoding of every instruction fits the opcode map. -/
theorem encoding_fits (i : Instr) : Laws.EncodingFits.Statement i := by
  cases i with
  | csenter => exact Laws.EncodingFits.csenter
  | csexit => exact Laws.EncodingFits.csexit
  | macfg ch cap => exact Laws.EncodingFits.macfg ch cap
  | maadd ch sample => exact Laws.EncodingFits.maadd ch sample
  | maval ch => exact Laws.EncodingFits.maval ch
  | rdreg safe reg => exact Laws.EncodingFits.rdreg safe reg
  | rdburst safe reg count => exact Laws.EncodingFits.rdburst safe reg count
  | wrreg reg value => exact Laws.EncodingFits.wrreg reg value
  | getbf idx => exact Laws.EncodingFits.getbf idx
  | setbf idx value => exact Laws.EncodingFits.setbf idx value
  | valsafe => exact Laws.EncodingFits.valsafe
  | sreset => exact Laws.EncodingFits.sreset
  | txbld elem value => exact Laws.EncodingFits.txbld elem value
  | txbrd elem => exact Laws.EncodingFits.txbrd elem
  | angle useAverage => exact Laws.EncodingFits.angle useAverage
  | arev => exact Laws.EncodingFits.arev
  | aangle => exact Laws.EncodingFits.aangle
  | speed => exact Laws.EncodingFits.speed
  | accel => exact Laws.EncodingFits.accel
  | temp => exact Laws.EncodingFits.temp
  | zero => exact Laws.EncodingFits.zero
  | setofs offset => exact Laws.EncodingFits.setofs offset
  | setstate state clr => exact Laws.EncodingFits.setstate state clr
  | getstate => exact Laws.EncodingFits.getstate
  | setcur mA => exact Laws.EncodingFits.setcur mA
  | getcur => exact Laws.EncodingFits.getcur
  | sched dir rate count => exact Laws.EncodingFits.sched dir rate count
  | setdes pos => exact Laws.EncodingFits.setdes pos
  | setpos pos => exact Laws.EncodingFits.setpos pos
  | geterr => exact Laws.EncodingFits.geterr
  | getpos => exact Laws.EncodingFits.getpos
  | cten enable => exact Laws.EncodingFits.cten enable
  | evStepedge => exact Laws.EncodingFits.evStepedge
  | evSched => exact Laws.EncodingFits.evSched
  | evTick => exact Laws.EncodingFits.evTick
  | evFine => exact Laws.EncodingFits.evFine

/-- The operands of the word an instruction is encoded as are the instruction's. -/
theorem operands_of_encode {i : Instr} {cw : Long} (h : encode i = .command cw) : operands cw = some i := by
  cases i with
  | evStepedge | evSched | evTick | evFine => cases h
  | macfg | maadd | maval => cases h; simp [operands, selCode_low]
  | rdreg | angle | cten | sched => cases h; simp [operands, flag0_selFlag, regOf_fieldReg]
  | rdburst => cases h; simp [operands, flag0_selFlag, regOf_fieldReg, count_low]
  | wrreg => cases h; simp [operands, regOf_fieldReg, lowWord_fieldWord]
  | setbf | getbf => cases h; simp [operands, lowWord_fieldWord]
  | txbld | txbrd => cases h; simp [operands, TxbElem.ofIndex_index, lowWord_fieldWord]
  | setstate => cases h; simp [operands, stateSel_low, -BitVec.getLsbD_eq_getElem, stateSel_flag]
  | _ => cases h; simp [operands]

/-- Settles O1: a command word fits its row and holds the instruction's operands; an event vector is its one line. -/
theorem decodeInvertsEncode : Obligations.DecodeInvertsEncode := by
  intro c i hwf
  have hfits : Laws.Wire.fits i (encode i) := encoding_fits i
  cases hw : encode i with
  | command cw =>
    rw [hw] at hfits
    exact decode_eq_instr_iff.mpr ⟨hfits, operands_of_encode hw, hwf⟩
  | event v =>
    rw [hw] at hfits
    obtain ⟨-, -, hev, -⟩ := hfits
    simp [decodeWire, hev]

/-! ### The fields of a word that fits its row (R91)

Each lemma says that a field whose must-be-zero bits are zero is what the encoder writes for the operand read from it. -/

/-- A field with every bit in the must-be-zero mask is 0. -/
theorem zero_of_and_ones {w : Nat} {x : BitVec w} (h : x &&& BitVec.allOnes w = 0) : 0 = x := by
  rw [← h, BitVec.and_allOnes]

/-- A field whose bits from `n` on are zero is its low `n` bits, widened. -/
theorem setWidth_low {w n : Nat} {x : BitVec w} (h : x &&& BitVec.allOnes w <<< n = 0) :
    (x.extractLsb' 0 n).setWidth w = x := by
  apply BitVec.eq_of_getLsbD_eq
  intro i hi
  have hand : (x &&& BitVec.allOnes w <<< n).getLsbD i = false := by rw [h]; exact BitVec.getLsbD_zero
  by_cases hn : i < n
  · simp [hi, hn]
  · have hzero : x.getLsbD i = false := by simpa [hi, hn] using hand
    simp [hn, hzero]

theorem selCode_of_clear {sel : Byte} (h : sel &&& 0xF8 = 0) : selCode (sel.extractLsb' 0 3) = sel := setWidth_low h

theorem selFlag_flag0 {sel : Byte} (h : sel &&& 0xFE = 0) : selFlag (flag0 sel) = sel := by
  revert sel; decide

theorem fieldReg_regOf {a : Word} (h : a &&& 0xFC00 = 0) : fieldReg (regOf a) = a := setWidth_low h

theorem fieldWord_lowWord {b : U32} (h : b &&& 0xFFFF0000 = 0) : fieldWord (lowWord b) = b := setWidth_low h

theorem count_of_clear {b : U32} (h : b &&& 0xFFFFFFF0 = 0) : (b.extractLsb' 0 4).setWidth 32 = b := setWidth_low h

theorem stateSel_of_clear {sel : Byte} (h : sel &&& 0x78 = 0) :
    BitVec.ofBool (sel.getLsbD 7) ++ 0#4 ++ sel.extractLsb' 0 3 = sel := by
  revert sel; decide

theorem Chan.code_of_ofCode {c : BitVec 3} {ch : Chan} (h : Chan.ofCode c = some ch) : ch.code = c := by
  revert h ch c; decide

theorem MotorState.code_of_ofCode {c : BitVec 3} {st : MotorState} (h : MotorState.ofCode c = some st) : st.code = c := by
  revert h st c; decide

theorem Dir.bit_ofBit (b : Bool) : (Dir.ofBit b).bit = b := by cases b <;> rfl

theorem TxbElem.index_of_ofIndex {idx : Byte} {e : TxbElem} (h : TxbElem.ofIndex idx = some e) : e.index = idx := by
  revert h e idx; decide

theorem selCode_chan {sel : Byte} {ch : Chan} (hch : Chan.ofCode (sel.extractLsb' 0 3) = some ch) (h : sel &&& 0xF8 = 0) :
    selCode ch.code = sel := by
  rw [Chan.code_of_ofCode hch, selCode_of_clear h]

/-! ### Every word that decodes is an encoding -/

/-- A word is its four fields in a row (R90). -/
theorem packCw_fields (cw : Long) : packCw (cwOp cw) (cwSel cw) (cwA cw) (cwB cw) = cw := by
  simp only [packCw, cwOp, cwSel, cwA, cwB, BitVec.extractLsb'_append_extractLsb'_eq_extractLsb']
  exact BitVec.extractLsb'_eq_self

/-- A word of a known opcode is the encoder's word where each of its fields, clear of the row's must-be-zero bits, is the one the
encoder writes. -/
theorem FitsRow.command {cw : Long} {op sel : Byte} {a : Word} {b : U32} {z : ZeroMask} (h : FitsRow cw)
    (hop : (cwOp cw).toNat = op.toNat) (hrow : opcodeRow op = some z)
    (hsel : cwSel cw &&& z.sel = 0 → sel = cwSel cw) (ha : cwA cw &&& z.a = 0 → a = cwA cw)
    (hb : cwB cw &&& z.b = 0 → b = cwB cw) : Wire.command (packCw op sel a b) = .command cw := by
  obtain ⟨z', hrow', hclear⟩ := h
  obtain rfl : cwOp cw = op := BitVec.eq_of_toNat_eq hop
  obtain rfl : z' = z := Option.some.inj (hrow'.symm.trans hrow)
  obtain ⟨hs, ha', hb'⟩ := ZeroMask.clear_iff.mp hclear
  rw [hsel hs, ha ha', hb hb', packCw_fields]

/-- A command without operands is its opcode alone. -/
theorem FitsRow.bare {cw : Long} {op : Byte} (h : FitsRow cw) (hop : (cwOp cw).toNat = op.toNat)
    (hrow : opcodeRow op = some ⟨0xFF, 0xFFFF, 0xFFFFFFFF⟩) : Wire.command (packCw op 0 0 0) = .command cw :=
  h.command hop hrow zero_of_and_ones zero_of_and_ones zero_of_and_ones

/-- The fields of a word that fits its row are those the encoder writes for its operands: opcode by opcode, in the order of R91. -/
theorem encode_of_operands {cw : Long} {i : Instr} (h : FitsRow cw) (hops : operands cw = some i) :
    encode i = .command cw := by
  unfold operands at hops
  dsimp only at hops
  split at hops
  next hop => cases hops; exact h.bare hop rfl
  next hop => cases hops; exact h.bare hop rfl
  next hop =>
    obtain ⟨ch, hch, rfl⟩ := Option.map_eq_some_iff.mp hops
    exact h.command hop rfl (selCode_chan hch) (fun _ => rfl) zero_of_and_ones
  next hop =>
    obtain ⟨ch, hch, rfl⟩ := Option.map_eq_some_iff.mp hops
    exact h.command hop rfl (selCode_chan hch) zero_of_and_ones (fun _ => rfl)
  next hop =>
    obtain ⟨ch, hch, rfl⟩ := Option.map_eq_some_iff.mp hops
    exact h.command hop rfl (selCode_chan hch) zero_of_and_ones zero_of_and_ones
  next hop => cases hops; exact h.command hop rfl selFlag_flag0 fieldReg_regOf zero_of_and_ones
  next hop => cases hops; exact h.command hop rfl selFlag_flag0 fieldReg_regOf count_of_clear
  next hop => cases hops; exact h.command hop rfl zero_of_and_ones fieldReg_regOf fieldWord_lowWord
  next hop => cases hops; exact h.command hop rfl (fun _ => rfl) zero_of_and_ones zero_of_and_ones
  next hop => cases hops; exact h.command hop rfl (fun _ => rfl) zero_of_and_ones fieldWord_lowWord
  next hop => cases hops; exact h.bare hop rfl
  next hop => cases hops; exact h.bare hop rfl
  next hop =>
    obtain ⟨e, he, rfl⟩ := Option.map_eq_some_iff.mp hops
    exact h.command hop rfl (fun _ => TxbElem.index_of_ofIndex he) zero_of_and_ones fieldWord_lowWord
  next hop =>
    obtain ⟨e, he, rfl⟩ := Option.map_eq_some_iff.mp hops
    exact h.command hop rfl (fun _ => TxbElem.index_of_ofIndex he) zero_of_and_ones zero_of_and_ones
  next hop => cases hops; exact h.command hop rfl selFlag_flag0 zero_of_and_ones zero_of_and_ones
  next hop => cases hops; exact h.bare hop rfl
  next hop => cases hops; exact h.bare hop rfl
  next hop => cases hops; exact h.bare hop rfl
  next hop => cases hops; exact h.bare hop rfl
  next hop => cases hops; exact h.bare hop rfl
  next hop => cases hops; exact h.bare hop rfl
  next hop => cases hops; exact h.command hop rfl zero_of_and_ones zero_of_and_ones (fun _ => rfl)
  next hop =>
    obtain ⟨st, hst, rfl⟩ := Option.map_eq_some_iff.mp hops
    have hsel (hclear : cwSel cw &&& 0x78 = 0) :
        BitVec.ofBool ((cwSel cw).getLsbD 7) ++ 0#4 ++ st.code = cwSel cw := by
      rw [MotorState.code_of_ofCode hst, stateSel_of_clear hclear]
    exact h.command hop rfl hsel zero_of_and_ones zero_of_and_ones
  next hop => cases hops; exact h.bare hop rfl
  next hop => cases hops; exact h.command hop rfl zero_of_and_ones (fun _ => rfl) zero_of_and_ones
  next hop => cases hops; exact h.bare hop rfl
  next hop =>
    cases hops
    exact h.command hop rfl (fun hsel => by rw [Dir.bit_ofBit, selFlag_flag0 hsel]) (fun _ => rfl) (fun _ => rfl)
  next hop => cases hops; exact h.command hop rfl zero_of_and_ones zero_of_and_ones (fun _ => rfl)
  next hop => cases hops; exact h.command hop rfl zero_of_and_ones zero_of_and_ones (fun _ => rfl)
  next hop => cases hops; exact h.bare hop rfl
  next hop => cases hops; exact h.bare hop rfl
  next hop => cases hops; exact h.command hop rfl selFlag_flag0 zero_of_and_ones zero_of_and_ones
  next => cases hops

/-- Settles O2: a word that decodes fits its row and its operands are in range, so every bit of it is the encoder's. -/
theorem encodeInvertsDecode : Obligations.EncodeInvertsDecode := by
  intro c cw i h
  obtain ⟨hfits, hops, hwf⟩ := decode_eq_instr_iff.mp h
  exact ⟨encode_of_operands hfits hops, hwf⟩

end Sys2Proof
end

section
/-! SUPPORT. The bit-field descriptor word: its fields, and the two round trips (30_encoding.md R101 to R104). -/

namespace Sys2Proof

/-- The fields of a packed descriptor, each below the ones written before it (R101). -/
theorem Descriptor.fields_pack (f : Descriptor) :
    f.pack.extractLsb' 0 7 = 0 ∧ f.pack.extractLsb' 7 8 = f.slot ∧ f.pack.extractLsb' 15 16 = f.dflt ∧
      f.pack.extractLsb' 31 4 = f.offset ∧ f.pack.extractLsb' 35 16 = f.mask ∧ f.pack.extractLsb' 51 10 = f.reg ∧
      f.pack.extractLsb' 61 3 = f.mode.code := by
  unfold Descriptor.pack
  refine ⟨?low, ?slot, ?dflt, ?offset, ?mask, ?reg, ?mode⟩
  all_goals repeat rw [BitVec.extractLsb'_append_eq_of_le (by decide)]
  case mode => exact BitVec.extractLsb'_eq_self
  all_goals exact BitVec.extractLsb'_append_eq_right

theorem Descriptor.unpack_pack (f : Descriptor) : Descriptor.unpack f.pack = some f := by
  obtain ⟨hlow, hslot, hdflt, hoffset, hmask, hreg, hmode⟩ := f.fields_pack
  simp [Descriptor.unpack, hlow, hslot, hdflt, hoffset, hmask, hreg, hmode]

theorem AccessMode.code_of_ofCode {c : BitVec 3} {m : AccessMode} (h : AccessMode.ofCode c = some m) : m.code = c := by
  revert h m c; decide

/-- A word that unpacks is its seven fields in a row, the lowest of them zero (R101). -/
theorem Descriptor.pack_of_unpack {w : Long} {f : Descriptor} (h : Descriptor.unpack w = some f) : f.pack = w := by
  unfold Descriptor.unpack at h
  split_ifs at h with hlow
  obtain ⟨m, hm, rfl⟩ := Option.map_eq_some_iff.mp h
  have hzero : 0#7 = w.extractLsb' 0 7 := (beq_iff_eq.mp hlow).symm
  simp only [Descriptor.pack, AccessMode.code_of_ofCode hm, hzero,
    BitVec.extractLsb'_append_extractLsb'_eq_extractLsb']
  exact BitVec.extractLsb'_eq_self

/-- Settles O6. -/
theorem descriptorRoundTrip : Obligations.DescriptorRoundTrip :=
  ⟨Descriptor.unpack_pack, fun _ _ => Descriptor.pack_of_unpack, by decide⟩

end Sys2Proof
end

section
/-! SUPPORT. The words the rules write out, and the address word (30_encoding.md R91, R94, R96). -/

namespace Sys2Proof.Machine

open Sys2Proof

/-- The fields of the address word, each below the ones written before it (R96). -/
theorem addrWord_fields (rw safe : Bool) (reg : RegNum) (len : BitVec 4) :
    (addrWord rw safe reg len).getLsbD 15 = rw ∧ (addrWord rw safe reg len).getLsbD 14 = safe ∧
      (addrWord rw safe reg len).extractLsb' 4 10 = reg ∧ (addrWord rw safe reg len).extractLsb' 0 4 = len := by
  unfold addrWord
  refine ⟨?_, ?_, ?_, BitVec.extractLsb'_append_eq_right⟩
  · rw [BitVec.getLsbD_append, BitVec.getLsbD_append, BitVec.getLsbD_append]; simp
  · rw [BitVec.getLsbD_append, BitVec.getLsbD_append, BitVec.getLsbD_append]; simp
  · rw [BitVec.extractLsb'_append_eq_of_le (by decide)]
    exact BitVec.extractLsb'_append_eq_right

/-- Settles O5. -/
theorem addressWord : Obligations.AddressWord :=
  ⟨fun rw safe reg len => ⟨addrWord_toNat rw safe reg len, addrWord_fields rw safe reg len⟩, by decide⟩

/-- Settles O3. -/
theorem writtenWordsDecode : Obligations.WrittenWordsDecode := by
  unfold Obligations.WrittenWordsDecode
  decide

end Sys2Proof.Machine
end

section
/-! SUPPORT. The output trace and its responses: every operation inside a command only appends, and no response; the end of a command
appends its one response (10_state.md R38, 30_encoding.md R93). -/

namespace Sys2Proof.Machine

open Sys2Proof

/-- From `s` to `t` the trace has only grown, and by no response. -/
def GrowsSilently (s t : State) : Prop := ∃ l, t.trace = s.trace ++ l ∧ l.filter TraceItem.isResponse = []

theorem GrowsSilently.trans {s t u : State} (h : GrowsSilently s t) (k : GrowsSilently t u) : GrowsSilently s u := by
  obtain ⟨l, hl, hsilent⟩ := h
  obtain ⟨l', hl', hsilent'⟩ := k
  exact ⟨l ++ l', by rw [hl', hl, List.append_assoc], by rw [List.filter_append, hsilent, hsilent', List.append_nil]⟩

/-- What every operation inside a command does to trace and command in flight: no response, and nothing is set waiting. -/
structure Silent (s t : State) : Prop where
  busy : t.busy = s.busy
  trace : GrowsSilently s t

theorem Silent.trans {s t u : State} (h : Silent s t) (k : Silent t u) : Silent s u :=
  ⟨k.busy.trans h.busy, h.trace.trans k.trace⟩

theorem Silent.of_trace_eq {s t : State} (hbusy : t.busy = s.busy) (h : t.trace = s.trace) : Silent s t :=
  ⟨hbusy, [], by rw [h, List.append_nil], rfl⟩

theorem Silent.refl (s : State) : Silent s s := .of_trace_eq rfl rfl

theorem Silent.of_emit {s t : State} {x : TraceItem} (hbusy : t.busy = s.busy) (h : t.trace = s.trace ++ [x])
    (hx : x.isResponse = false) : Silent s t :=
  ⟨hbusy, [x], h, by simp [hx]⟩

/-! ### The setters -/

theorem withCs_silent (s : State) (n : BitVec 8) : Silent s (s.withCs n) := .of_trace_eq rfl rfl

theorem withMa_silent (s : State) (x : Bank Filter) : Silent s (s.withMa x) := .of_trace_eq rfl rfl

theorem withTxb_silent (s : State) (x : Txb) : Silent s (s.withTxb x) := .of_trace_eq rfl rfl

theorem setSlot_silent (s : State) (i : Byte) (w : Word) : Silent s (s.setSlot i w) := .of_trace_eq rfl rfl

/-! ### The transport and the register protocol -/

theorem selAssert_silent (s : State) : Silent s (selAssert s) := .of_emit rfl rfl rfl

theorem selDeassert_silent (s : State) : Silent s (selDeassert s) := .of_emit rfl rfl rfl

theorem setBusMode_silent (m : BusMode) (s : State) : Silent s (setBusMode m s) := .of_emit rfl rfl rfl

theorem xferWord_silent (w : Word) (s : State) : Silent s (xferWord w s).2 := .of_emit rfl (xferWord_trace w s) rfl

theorem readBlanks_silent (n : Nat) (s : State) : Silent s (readBlanks n s).2 := by
  induction n generalizing s with
  | zero => exact .refl s
  | succ n ih => exact (xferWord_silent _ s).trans (ih _)

theorem beginRead_silent (w : Word) (s : State) : Silent s (beginRead w s) :=
  ((selAssert_silent s).trans (xferWord_silent w _)).trans (setBusMode_silent _ _)

theorem endRead_silent (s : State) : Silent s (endRead s) := (setBusMode_silent _ s).trans (selDeassert_silent _)

theorem memRead_silent (reg : RegNum) (n : BitVec 4) (safe : Bool) (s : State) : Silent s (memRead reg n safe s).2 :=
  (((beginRead_silent _ s).trans (readBlanks_silent _ _)).trans (xferWord_silent _ _)).trans
    ((endRead_silent _).trans (withTxb_silent _ _))

theorem memWrite_silent (reg : RegNum) (v : Word) (s : State) : Silent s (memWrite reg v s) :=
  (((selAssert_silent s).trans (xferWord_silent _ _)).trans (xferWord_silent _ _)).trans (selDeassert_silent _)

theorem safetyReset_silent (s : State) : Silent s (safetyReset s) :=
  ((beginRead_silent _ s).trans (readBlanks_silent 2 _)).trans (endRead_silent _)

theorem updateCache_silent (reg : RegNum) (d : List Word) (s : State) : Silent s (updateCache reg d s) := by
  rw [updateCache_eq]
  exact .of_trace_eq rfl rfl

theorem validateAndReset_silent (s : State) : Silent s (validateAndReset s).2 := by
  unfold validateAndReset
  dsimp only
  split_ifs
  · exact safetyReset_silent s
  · exact .refl s

theorem readThenCache_silent (reg : RegNum) (n : BitVec 4) (safe : Bool) (s : State) :
    Silent s (readThenCache reg n safe s) :=
  (memRead_silent reg n safe s).trans (updateCache_silent reg _ _)

/-- A section is silent where its body is. -/
theorem inSection_silent {α : Type} {body : State → Except Fault (α × State)} {s t : State} {a : α}
    (hb : ∀ s a u, body s = .ok (a, u) → Silent s u) (h : inSection body s = .ok (a, t)) : Silent s t := by
  obtain ⟨-, u, hu, -, rfl⟩ := inSection_ok_iff.mp h
  exact ((withCs_silent s _).trans (hb _ _ _ hu)).trans (withCs_silent u _)

theorem readRegister_silent {reg : RegNum} {n : BitVec 4} {safe : Bool} {s t : State} {r : List Word × Status}
    (h : readRegister reg n safe s = .ok (r, t)) : Silent s t := by
  refine inSection_silent (fun s1 r u hu => ?_) h
  dsimp only at hu
  split_ifs at hu
  · cases hu; exact (readThenCache_silent reg n safe s1).trans (validateAndReset_silent _)
  · cases hu; exact readThenCache_silent reg n safe s1

theorem readBody_silent {reg : RegNum} {n : BitVec 4} {safe : Bool} {data : List Word → Long} {s t : State} {r : Reply}
    (h : readBody reg n safe data s = .ok (r, t)) : Silent s t := by
  unfold readBody at h
  split at h
  next => cases h
  next hr => cases h; exact readRegister_silent hr

theorem getField_silent {f : Descriptor} {s t : State} {r : Reply} (h : getField f s = .ok (r, t)) : Silent s t := by
  unfold getField at h
  split at h
  next =>
    split at h
    next => cases h
    next hr =>
      split at h
      next => cases h
      next => cases h; exact readRegister_silent hr
  next => cases h; exact .refl _

theorem setField_silent {f : Descriptor} {x : Word} {s t : State} {r : Reply} (h : setField f x s = .ok (r, t)) :
    Silent s t := by
  unfold setField at h
  split at h
  next =>
    split at h
    next => cases h
    next => cases h; exact (setSlot_silent s _ _).trans (memWrite_silent _ _ _)
  next => cases h; exact .refl _

/-! ### The fault monitor and the scheduler -/

theorem setMotorState_silent (st : MotorState) (clr : Bool) (s : State) : Silent s (setMotorState st clr s) := by
  unfold setMotorState
  dsimp only
  split_ifs
  · exact .of_emit rfl rfl rfl
  · exact .of_trace_eq rfl rfl

theorem otEval_silent (x : Fx) (now : U32) (s : State) : Silent s (otEval x now s) := by
  unfold otEval
  split_ifs
  · exact setMotorState_silent _ _ s
  · exact .refl s
  · exact setMotorState_silent _ _ s
  · exact .of_emit rfl rfl rfl
  · exact .refl s

theorem clearStall_silent (s : State) : Silent s (clearStall s) := .of_trace_eq rfl rfl

theorem applySetState_silent (st : MotorState) (clr : Bool) (s : State) : Silent s (applySetState st clr s) := by
  unfold applySetState
  split_ifs
  · exact .refl s
  · exact (clearStall_silent s).trans (setMotorState_silent _ _ _)
  · exact setMotorState_silent _ _ s

theorem issueStep_silent (dir : Dir) (u : Bool) (s : State) : Silent s (issueStep dir u s) :=
  .of_emit rfl (issueStep_trace dir u s) rfl

theorem schedFire_silent (s : State) : Silent s (schedFire s) := (issueStep_silent _ _ s).trans (.of_trace_eq rfl rfl)

theorem correct_silent {e : Int} {s t : State} (h : correct e s = .ok t) : Silent s t := by
  unfold correct at h
  split at h
  next => cases h; exact issueStep_silent _ _ s
  next =>
    obtain ⟨hout, -, htrace⟩ := pidStep_outside h
    exact .of_trace_eq hout.busy htrace

theorem tickCorrection_silent {s t : State} (h : tickCorrection s = .ok t) : Silent s t := by
  unfold tickCorrection at h
  dsimp only at h
  split_ifs at h
  · cases h; exact .of_trace_eq rfl rfl
  · cases hc : correct (stepError s) s with
    | error f => rw [hc] at h; cases h
    | ok u => rw [hc] at h; cases h; exact (correct_silent hc).trans (.of_trace_eq rfl rfl)

theorem tick_silent {s t : State} (h : tick s = .ok t) : Silent s t := by
  unfold tick at h
  split_ifs at h
  · cases h; exact .refl s
  · cases h; exact .refl s
  · cases h; exact (setMotorState_silent _ _ s).trans (.of_trace_eq rfl rfl)
  · exact tickCorrection_silent h
  · exact (setMotorState_silent _ _ s).trans (tickCorrection_silent h)

/-! ### Commands and handlers -/

/-- How the step of a command that started at `s` ends: with its one response, last; or waiting at a blocking read. -/
inductive CommandStep (s : State) : State → Prop
  | responds {u : State} (k : Status) (d : Long) (hidle : u.busy = none) (h : GrowsSilently s u) : CommandStep s (u.respond k d)
  | waits {u : State} (p : InFlight) (h : GrowsSilently s u) : CommandStep s (u.withBusy (some p))

theorem CommandStep.after {s u t : State} (h : GrowsSilently s u) (k : CommandStep u t) : CommandStep s t := by
  cases k with
  | responds k d hidle hu => exact .responds k d hidle (h.trans hu)
  | waits p hu => exact .waits p (h.trans hu)

theorem refuseCommand_step {k : Status} {s t : State} (hidle : s.busy = none) (h : refuseCommand k s = .next t) :
    CommandStep s t := by
  cases h
  exact .responds k 0 hidle (Silent.refl s).trace

theorem answer_step {r : Reply} {s u t : State} (hidle : s.busy = none) (hu : Silent s u)
    (h : answer (.ok (r, u)) = .next t) : CommandStep s t := by
  cases h
  exact .responds _ _ (hu.busy.trans hidle) hu.trace

theorem command_step {body : State → Except Fault (Reply × State)} {s t : State} (hidle : s.busy = none)
    (h : command body s = .next t) (hb : ∀ s r u, body s = .ok (r, u) → Silent s u) : CommandStep s t := by
  obtain ⟨-, r, u, hu, -, rfl⟩ := command_next_iff.mp h
  have hsilent : Silent s (u.withCs (u.csCount - 1)) :=
    ((withCs_silent s _).trans (hb _ r u hu)).trans (withCs_silent u _)
  exact answer_step hidle hsilent rfl

/-- A command whose body cannot fail. -/
theorem command_ok_step {reply : State → Reply} {next : State → State} {s t : State} (hidle : s.busy = none)
    (h : command (fun s1 => .ok (reply s1, next s1)) s = .next t) (hn : ∀ s1, Silent s1 (next s1)) : CommandStep s t :=
  command_step hidle h (by rintro s1 r u ⟨⟩; exact hn s1)

theorem handler_silent {body : State → Except Fault State} {s t : State} (h : handler body s = .next t)
    (hb : ∀ s u, body s = .ok u → Silent s u) : Silent s t := by
  obtain ⟨-, u, hu, -, rfl⟩ := handler_next_iff.mp h
  exact ((withCs_silent s _).trans (hb _ u hu)).trans (withCs_silent u _)

/-! ### The estimator commands -/

theorem finishOp_silent {op : EstOp} {now : U32} {rev : Word} {d : List Word} {s t : State} {r : Reply}
    (h : finishOp op now rev d s = .ok (r, t)) : Silent s t := by
  obtain ⟨b, x, rfl⟩ | ⟨b, temp, rfl⟩ := finishOp_cases h
  · exact .of_trace_eq rfl rfl
  · exact (withMa_silent s b).trans (otEval_silent temp now _)

theorem endCommand_step {op : EstOp} {r : Reply} {s t : State} (h : endCommand op r s = .next t) : CommandStep s t := by
  rw [endCommand_next h]
  exact .responds _ _ rfl (Silent.refl s).trace

theorem afterFailure_step {p : InFlight} {s t : State} (h : afterFailure p s = .next t) : CommandStep s t := by
  unfold afterFailure at h
  dsimp only at h
  split at h
  next => cases h; exact .waits _ (Silent.refl s).trace
  next =>
    split_ifs at h
    · exact endCommand_step h
    · cases h; exact .waits _ (Silent.refl s).trace

theorem attemptLast_step {p : InFlight} {rev : Word} {s t : State} (h : attemptLast p rev s = .next t) :
    CommandStep s t := by
  unfold attemptLast at h
  dsimp only at h
  split at h
  next => cases h
  next hr =>
    refine .after (readRegister_silent hr).trace ?_
    split_ifs at h
    · split at h
      next => cases h
      next hf => exact .after (finishOp_silent hf).trace (endCommand_step h)
    · exact afterFailure_step h

theorem attempt_step {p : InFlight} {s t : State} (h : attempt p s = .next t) : CommandStep s t := by
  unfold attempt at h
  split at h
  next =>
    split at h
    next => cases h
    next hr =>
      refine .after (readRegister_silent hr).trace ?_
      split_ifs at h
      · exact attemptLast_step h
      · exact afterFailure_step h
  next => exact attemptLast_step h
  next => exact attemptLast_step h

theorem startCommand_step {op : EstOp} {s t : State} (h : startCommand op s = .next t) : CommandStep s t := by
  unfold startCommand at h
  split at h
  next => cases h
  next he =>
    obtain ⟨-, rfl⟩ := csEnterMany_ok_iff.mp he
    exact .after (withCs_silent s _).trace (attempt_step h)

/-! ### The instructions with a choice of their own -/

theorem execCsenter_step {s t : State} (hidle : s.busy = none) (h : execCsenter s = .next t) : CommandStep s t := by
  unfold execCsenter at h
  split at h
  next => cases h
  next he =>
    obtain ⟨-, rfl⟩ := csEnter_ok_iff.mp he
    exact answer_step hidle (withCs_silent s _) h

theorem execCsexit_step {s t : State} (hidle : s.busy = none) (h : execCsexit s = .next t) : CommandStep s t := by
  unfold execCsexit at h
  split at h
  next => cases h
  next he =>
    obtain ⟨-, rfl⟩ := csExit_ok_iff.mp he
    exact answer_step hidle (withCs_silent s _) h

theorem execMacfg_step {ch : Chan} {cap : Word} {s t : State} (hidle : s.busy = none)
    (h : execMacfg ch cap s = .next t) : CommandStep s t := by
  unfold execMacfg at h
  split_ifs at h
  · exact command_ok_step hidle h fun _ => .of_trace_eq rfl rfl
  · exact refuseCommand_step hidle h

theorem execMaadd_step {ch : Chan} {x : U32} {s t : State} (hidle : s.busy = none) (h : execMaadd ch x s = .next t) :
    CommandStep s t := by
  refine command_step hidle h (fun s1 r u hb => ?_)
  split at hb
  next => cases hb
  next hm =>
    cases hb
    obtain ⟨b, rfl⟩ := maAdd_moves_filters hm
    exact .of_trace_eq rfl rfl

theorem execRdburst_step {safe : Bool} {reg : RegNum} {n : BitVec 4} {s t : State} (hidle : s.busy = none)
    (h : execRdburst safe reg n s = .next t) : CommandStep s t := by
  unfold execRdburst at h
  split_ifs at h
  · exact refuseCommand_step hidle h
  · exact command_step hidle h fun _ _ _ => readBody_silent

theorem execGetbf_step {idx : Byte} {s t : State} (hidle : s.busy = none) (h : execGetbf idx s = .next t) :
    CommandStep s t := by
  unfold execGetbf at h
  split at h
  next => exact refuseCommand_step hidle h
  next => exact command_step hidle h fun _ _ _ => getField_silent

theorem execSetbf_step {idx : Byte} {v : Word} {s t : State} (hidle : s.busy = none) (h : execSetbf idx v s = .next t) :
    CommandStep s t := by
  unfold execSetbf at h
  split at h
  next => exact refuseCommand_step hidle h
  next => exact command_step hidle h fun _ _ _ => setField_silent

theorem execTxbld_step {e : TxbElem} {v : Word} {s t : State} (hidle : s.busy = none) (h : execTxbld e v s = .next t) :
    CommandStep s t := by
  unfold execTxbld at h
  split_ifs at h
  · exact command_ok_step hidle h fun _ => .of_trace_eq rfl rfl
  · exact refuseCommand_step hidle h

theorem execSpeed_step {s t : State} (h : execSpeed s = .next t) : CommandStep s t := by
  unfold execSpeed at h
  split at h
  next => exact startCommand_step h
  next => exact startCommand_step h

theorem execTemp_step {s t : State} (h : execTemp s = .next t) : CommandStep s t := by
  unfold execTemp at h
  split_ifs at h
  exact startCommand_step h

theorem execSched_step {dir : Dir} {rate : Word} {n : U32} {s t : State} (hidle : s.busy = none)
    (h : execSched dir rate n s = .next t) : CommandStep s t := by
  unfold execSched at h
  split_ifs at h
  · exact refuseCommand_step hidle h
  · exact refuseCommand_step hidle h
  · exact command_ok_step hidle h fun _ => .of_trace_eq rfl rfl

theorem execEvFine_silent {s t : State} (h : execEvFine s = .next t) : Silent s t := by
  refine handler_silent h (fun s1 u hb => ?_)
  cases hb
  split_ifs
  · exact issueStep_silent _ _ s1
  · exact .refl s1

theorem execEvSched_silent {s t : State} (h : execEvSched s = .next t) : Silent s t := by
  refine handler_silent h (fun s1 u hb => ?_)
  cases hb
  split_ifs
  · exact schedFire_silent s1
  · exact .refl s1

/-! ### Every instruction -/

/-- An event answers nothing (60_exceptions.md R271). -/
theorem exec_event_silent {i : Instr} {s t : State} (hev : isEvent i = true) (h : exec i s = .next t) : Silent s t := by
  cases i with
  | evStepedge => exact handler_silent h (by rintro s1 u ⟨⟩; exact .of_trace_eq rfl rfl)
  | evSched => exact execEvSched_silent h
  | evTick => exact handler_silent h fun _ _ => tick_silent
  | evFine => exact execEvFine_silent h
  | _ => cases hev

/-- A command of an idle machine responds once, or stands at a blocking read (30_encoding.md R93, 43_motion_estimator.md R180). -/
theorem exec_command_step {i : Instr} {s t : State} (hcmd : isEvent i = false) (hidle : s.busy = none)
    (h : exec i s = .next t) : CommandStep s t := by
  cases i with
  | csenter => exact execCsenter_step hidle h
  | csexit => exact execCsexit_step hidle h
  | macfg => exact execMacfg_step hidle h
  | maadd => exact execMaadd_step hidle h
  | rdreg => exact command_step hidle h fun _ _ _ => readBody_silent
  | rdburst => exact execRdburst_step hidle h
  | wrreg => exact command_ok_step hidle h (memWrite_silent _ _)
  | getbf => exact execGetbf_step hidle h
  | setbf => exact execSetbf_step hidle h
  | valsafe => exact command_ok_step hidle h validateAndReset_silent
  | sreset => exact command_ok_step hidle h safetyReset_silent
  | txbld => exact execTxbld_step hidle h
  | speed => exact execSpeed_step h
  | temp => exact execTemp_step h
  | angle | arev | aangle | accel | zero => exact startCommand_step h
  | setstate => exact command_ok_step hidle h (applySetState_silent _ _)
  | setcur => exact command_ok_step hidle h fun _ => .of_emit rfl rfl rfl
  | sched => exact execSched_step hidle h
  | maval | txbrd | getstate | getcur | geterr | getpos => exact command_ok_step hidle h .refl
  | setofs | setdes | setpos | cten => exact command_ok_step hidle h fun _ => .of_trace_eq rfl rfl
  | evStepedge | evSched | evTick | evFine => cases hcmd

/-- Settles O16: an event and a waiting command have only appended silent items; a command that ends appends its response to those. -/
theorem oneResponsePerCommand : Obligations.OneResponsePerCommand := by
  intro i s t hidle h
  cases hev : isEvent i with
  | true =>
    obtain ⟨l, hl, hsilent⟩ := (exec_event_silent hev h).trace
    exact ⟨l, hl, by simpa using hsilent⟩
  | false =>
    cases exec_command_step hev hidle h with
    | responds k d hu hgrows =>
      obtain ⟨l, hl, hsilent⟩ := hgrows
      refine ⟨l ++ [.response k d], by simp [hl], ?_⟩
      rw [if_neg (by simp [hu])]
      exact ⟨l, k, d, rfl, hsilent⟩
    | waits p hgrows =>
      obtain ⟨l, hl, hsilent⟩ := hgrows
      refine ⟨l, hl, ?_⟩
      rw [if_pos (by simp)]
      exact hsilent

end Sys2Proof.Machine
end

section
/-! SUPPORT. The nesting depth of the critical section: `CSENTER` and `CSEXIT` move it by one, and every other instruction gives it
back, or stands at a blocking read with the sections it holds (40_critical_section.md R130 to R134). -/

namespace Sys2Proof.Machine

open Sys2Proof

/-! ### The two commands that move the depth (R130 to R133) -/

/-- A depth below 255 counts one up without wrapping (R130). -/
theorem depth_succ_setWidth {n : BitVec 8} (h : n ≠ 255) : (n + 1).setWidth 64 = BitVec.ofNat 64 (n.toNat + 1) := by
  apply BitVec.eq_of_toNat_eq
  bv_omega

/-- A depth above 0 counts one down without wrapping (R131). -/
theorem depth_pred_setWidth {n : BitVec 8} (h : n ≠ 0) : (n - 1).setWidth 64 = BitVec.ofNat 64 (n.toNat - 1) := by
  apply BitVec.eq_of_toNat_eq
  bv_omega

theorem execCsenter_of_room {s : State} (h : s.csCount ≠ 255) :
    execCsenter s = .next ((s.withCs (s.csCount + 1)).respond .ok (BitVec.ofNat 64 (s.csCount.toNat + 1))) := by
  rw [← depth_succ_setWidth h]
  simp [execCsenter, csEnter_ok_iff.mpr ⟨h, rfl⟩, answer, depthReply]

theorem execCsexit_of_held {s : State} (h : s.csCount ≠ 0) :
    execCsexit s = .next ((s.withCs (s.csCount - 1)).respond .ok (BitVec.ofNat 64 (s.csCount.toNat - 1))) := by
  rw [← depth_pred_setWidth h]
  simp [execCsexit, csExit_ok_iff.mpr ⟨h, rfl⟩, answer, depthReply]

theorem execCsenter_of_full {s : State} (h : s.csCount = 255) : execCsenter s = .fault .csOverflow := by
  simp [execCsenter, csEnter_error_iff.mpr ⟨h, rfl⟩]

theorem execCsexit_of_none {s : State} (h : s.csCount = 0) : execCsexit s = .fault .csUnderflow := by
  simp [execCsexit, csExit_error_iff.mpr ⟨h, rfl⟩]

theorem masked_iff {s : State} : s.masked = true ↔ 0 < s.csCount.toNat := by
  simp only [State.masked, bne_iff_ne, ne_eq]
  bv_omega

/-- Settles O18. -/
theorem sectionCommands : Obligations.SectionCommands := fun _ =>
  ⟨execCsenter_of_room, execCsenter_of_full, execCsexit_of_held, execCsexit_of_none, masked_iff⟩

/-! ### Operations inside a section -/

/-- From `s` to `t` the depth and the command in flight are the same. -/
structure SameDepth (s t : State) : Prop where
  csCount : t.csCount = s.csCount
  busy : t.busy = s.busy

theorem SameDepth.refl (s : State) : SameDepth s s := ⟨rfl, rfl⟩

theorem SameCore.sameDepth {s t : State} (h : SameCore s t) : SameDepth s t := ⟨h.csCount, h.busy⟩

theorem SameOutside.sameDepth {s t : State} (h : SameOutside s t) : SameDepth s t := ⟨h.csCount, h.busy⟩

theorem maAdd_sameDepth {ch : Chan} {x : Fx} {s t : State} (h : maAdd ch x s = .ok t) : SameDepth s t := by
  obtain ⟨b, rfl⟩ := maAdd_moves_filters h
  exact ⟨rfl, rfl⟩

theorem finishOp_sameDepth {op : EstOp} {now : U32} {rev : Word} {d : List Word} {s t : State} {r : Reply}
    (h : finishOp op now rev d s = .ok (r, t)) : SameDepth s t := by
  obtain ⟨b, x, rfl⟩ | ⟨b, temp, rfl⟩ := finishOp_cases h
  · exact ⟨rfl, rfl⟩
  · obtain ⟨hcs, hbusy⟩ := (otEval_outside temp now (s.withMa b)).sameDepth
    exact ⟨hcs, hbusy⟩

/-- A body of a section that enters and leaves nothing itself, on balance. -/
def KeepsDepth (body : State → Except Fault (Reply × State)) : Prop :=
  ∀ s r t, body s = .ok (r, t) → SameDepth s t

theorem readBody_keepsDepth (reg : RegNum) (n : BitVec 4) (safe : Bool) (data : List Word → Long) :
    KeepsDepth (readBody reg n safe data) := by
  intro s r t h
  unfold readBody at h
  split at h
  next => cases h
  next hr =>
    cases h
    obtain ⟨-, hcore, -⟩ := readRegister_ok hr
    exact hcore.sameDepth

theorem getField_keepsDepth (f : Descriptor) : KeepsDepth (getField f) := by
  intro s r t h
  unfold getField at h
  split at h
  next =>
    split at h
    next => cases h
    next hr =>
      obtain ⟨-, hcore, -⟩ := readRegister_ok hr
      split at h
      next => cases h
      next => cases h; exact hcore.sameDepth
  next => cases h; exact .refl s

theorem setField_keepsDepth (f : Descriptor) (x : Word) : KeepsDepth (setField f x) := by
  intro s r t h
  unfold setField at h
  split at h
  next =>
    split at h
    next => cases h
    next =>
      cases h
      obtain ⟨hcs, hbusy⟩ := (memWrite_sameCore f.reg _ (s.setSlot f.slot _)).sameDepth
      exact ⟨hcs, hbusy⟩
  next => cases h; exact .refl s

/-! ### What an instruction other than `CSENTER` and `CSEXIT` is -/

/-- The ways an instruction is given its meaning at `s`: refused as a word or by its configuration, a command or a handler whose body
keeps the depth, or the start of an estimator command. -/
inductive Balanced (s : State) : Host.Outcome State Fault Refusal → Prop
  | refuses (k : Status) : Balanced s (refuseCommand k s)
  | stops (q : Refusal) : Balanced s (.refused q)
  | runs {body : State → Except Fault (Reply × State)} (hb : KeepsDepth body) : Balanced s (command body s)
  | handles {body : State → Except Fault State} (hb : ∀ s1 u, body s1 = .ok u → SameDepth s1 u) :
      Balanced s (handler body s)
  | starts (op : EstOp) : Balanced s (startCommand op s)

/-- A command whose body cannot fail. -/
theorem Balanced.runs_ok {s : State} {reply : State → Reply} {next : State → State}
    (hn : ∀ s1, SameDepth s1 (next s1)) : Balanced s (command (fun s1 => .ok (reply s1, next s1)) s) :=
  .runs (by rintro s1 r u ⟨⟩; exact hn s1)

/-- A handler whose body cannot fail. -/
theorem Balanced.handles_ok {s : State} {next : State → State} (hn : ∀ s1, SameDepth s1 (next s1)) :
    Balanced s (handler (fun s1 => .ok (next s1)) s) :=
  .handles (by rintro s1 u ⟨⟩; exact hn s1)

theorem execMacfg_balanced (ch : Chan) (cap : Word) (s : State) : Balanced s (execMacfg ch cap s) := by
  unfold execMacfg
  split_ifs
  · exact .runs_ok fun _ => ⟨rfl, rfl⟩
  · exact .refuses _

theorem execMaadd_balanced (ch : Chan) (x : U32) (s : State) : Balanced s (execMaadd ch x s) := by
  refine .runs fun s1 r u hb => ?_
  split at hb
  next => cases hb
  next hm => cases hb; exact maAdd_sameDepth hm

theorem execRdburst_balanced (safe : Bool) (reg : RegNum) (n : BitVec 4) (s : State) :
    Balanced s (execRdburst safe reg n s) := by
  unfold execRdburst
  split_ifs
  · exact .refuses _
  · exact .runs (readBody_keepsDepth _ _ _ _)

theorem execGetbf_balanced (idx : Byte) (s : State) : Balanced s (execGetbf idx s) := by
  unfold execGetbf
  split
  · exact .refuses _
  · exact .runs (getField_keepsDepth _)

theorem execSetbf_balanced (idx : Byte) (v : Word) (s : State) : Balanced s (execSetbf idx v s) := by
  unfold execSetbf
  split
  · exact .refuses _
  · exact .runs (setField_keepsDepth _ _)

theorem execTxbld_balanced (e : TxbElem) (v : Word) (s : State) : Balanced s (execTxbld e v s) := by
  unfold execTxbld
  split_ifs
  · exact .runs_ok fun _ => ⟨rfl, rfl⟩
  · exact .refuses _

theorem execSpeed_balanced (s : State) : Balanced s (execSpeed s) := by
  unfold execSpeed
  split
  · exact .starts _
  · exact .starts _

theorem execTemp_balanced (s : State) : Balanced s (execTemp s) := by
  unfold execTemp
  split_ifs
  · exact .stops _
  · exact .starts _

theorem execSched_balanced (dir : Dir) (rate : Word) (n : U32) (s : State) : Balanced s (execSched dir rate n s) := by
  unfold execSched
  split_ifs
  · exact .refuses _
  · exact .refuses _
  · exact .runs_ok fun _ => ⟨rfl, rfl⟩

theorem execEvSched_balanced (s : State) : Balanced s (execEvSched s) := by
  refine .handles_ok fun s1 => ?_
  split_ifs
  · exact (schedFire_outside s1).sameDepth
  · exact .refl s1

theorem execEvFine_balanced (s : State) : Balanced s (execEvFine s) := by
  refine .handles_ok fun s1 => ?_
  split_ifs
  · exact (issueStep_outside _ _ s1).sameDepth
  · exact .refl s1

theorem exec_balanced {i : Instr} (s : State) (henter : i ≠ .csenter) (hexit : i ≠ .csexit) : Balanced s (exec i s) := by
  cases i with
  | csenter => exact absurd rfl henter
  | csexit => exact absurd rfl hexit
  | macfg => exact execMacfg_balanced _ _ s
  | maadd => exact execMaadd_balanced _ _ s
  | rdreg => exact .runs (readBody_keepsDepth _ _ _ _)
  | rdburst => exact execRdburst_balanced _ _ _ s
  | wrreg => exact .runs_ok fun s1 => (memWrite_sameCore _ _ s1).sameDepth
  | getbf => exact execGetbf_balanced _ s
  | setbf => exact execSetbf_balanced _ _ s
  | valsafe => exact .runs_ok fun s1 => (validateAndReset_sameCore s1).sameDepth
  | sreset => exact .runs_ok fun s1 => (safetyReset_sameCore s1).sameDepth
  | txbld => exact execTxbld_balanced _ _ s
  | speed => exact execSpeed_balanced s
  | temp => exact execTemp_balanced s
  | angle | arev | aangle | accel | zero => exact .starts _
  | setstate => exact .runs_ok fun s1 => (applySetState_outside _ _ s1).sameDepth
  | sched => exact execSched_balanced _ _ _ s
  | maval | txbrd | setofs | getstate | setcur | getcur | setdes | setpos | geterr | getpos | cten =>
    exact .runs_ok fun _ => ⟨rfl, rfl⟩
  | evStepedge => exact .handles_ok fun _ => ⟨rfl, rfl⟩
  | evSched => exact execEvSched_balanced s
  | evTick => exact .handles fun _ _ h => (tick_outside h).sameDepth
  | evFine => exact execEvFine_balanced s

/-! ### An estimator command leaves the sections it entered -/

theorem endCommand_csCount {op : EstOp} {r : Reply} {s t : State} (h : endCommand op r s = .next t) :
    t.csCount = s.csCount - BitVec.ofNat 8 op.depth := by
  rw [endCommand_next h]
  rfl

theorem afterFailure_csCount {p : InFlight} {s t : State} (h : afterFailure p s = .next t) (hidle : t.busy = none) :
    t.csCount = s.csCount - BitVec.ofNat 8 p.op.depth := by
  unfold afterFailure at h
  dsimp only at h
  split at h
  next => cases h; cases hidle
  next =>
    split_ifs at h
    · exact endCommand_csCount h
    · cases h; cases hidle

theorem attemptLast_csCount {p : InFlight} {rev : Word} {s t : State} (h : attemptLast p rev s = .next t)
    (hidle : t.busy = none) : t.csCount = s.csCount - BitVec.ofNat 8 p.op.depth := by
  unfold attemptLast at h
  dsimp only at h
  split at h
  next => cases h
  next hr =>
    obtain ⟨-, hcore, -⟩ := readRegister_ok hr
    rw [← hcore.csCount]
    split_ifs at h
    · split at h
      next => cases h
      next hf => rw [← (finishOp_sameDepth hf).csCount]; exact endCommand_csCount h
    · exact afterFailure_csCount h hidle

/-- An attempt that ends its command, with its reply or with its retries spent, leaves all the sections the command holds. -/
theorem attempt_csCount {p : InFlight} {s t : State} (h : attempt p s = .next t) (hidle : t.busy = none) :
    t.csCount = s.csCount - BitVec.ofNat 8 p.op.depth := by
  unfold attempt at h
  split at h
  next =>
    split at h
    next => cases h
    next hr =>
      obtain ⟨-, hcore, -⟩ := readRegister_ok hr
      rw [← hcore.csCount]
      split_ifs at h
      · exact (attemptLast_csCount h hidle :)
      · exact afterFailure_csCount h hidle
  next => exact attemptLast_csCount h hidle
  next => exact attemptLast_csCount h hidle

/-! ### The depth after an instruction (R134) -/

/-- The depth at `t` is that at `s`, with the sections of the command that stands at a blocking read, if one does, on top. -/
def DepthAccounted (s t : State) : Prop :=
  (t.busy = none → t.csCount = s.csCount) ∧ ∀ p, t.busy = some p → t.csCount.toNat = s.csCount.toNat + p.op.depth

theorem SameDepth.accounted {s t : State} (h : SameDepth s t) (hidle : s.busy = none) : DepthAccounted s t :=
  ⟨fun _ => h.csCount, fun p hp => by rw [h.busy, hidle] at hp; cases hp⟩

theorem command_sameDepth {body : State → Except Fault (Reply × State)} (hb : KeepsDepth body) {s t : State}
    (h : command body s = .next t) : SameDepth s t := by
  obtain ⟨-, r, u, hu, -, rfl⟩ := command_next_iff.mp h
  obtain ⟨hcs, hbusy⟩ := hb _ r u hu
  exact ⟨by simp [hcs], hbusy⟩

theorem handler_sameDepth {body : State → Except Fault State} (hb : ∀ s1 u, body s1 = .ok u → SameDepth s1 u) {s t : State}
    (h : handler body s = .next t) : SameDepth s t := by
  obtain ⟨-, u, hu, -, rfl⟩ := handler_next_iff.mp h
  obtain ⟨hcs, hbusy⟩ := hb _ u hu
  exact ⟨by simp [hcs], hbusy⟩

/-- The sections are entered without wrapping; an attempt that ends the command leaves as many, one after which it waits on
leaves none of them. -/
theorem startCommand_accounted {op : EstOp} {s t : State} (h : startCommand op s = .next t) : DepthAccounted s t := by
  unfold startCommand at h
  split at h
  next => cases h
  next he =>
    obtain ⟨hroom, rfl⟩ := csEnterMany_ok_iff.mp he
    refine ⟨fun hidle => by simp [attempt_csCount h hidle], fun p hp => ?_⟩
    cases attempt_ends h with
    | waits rev fails hcore =>
      cases hp
      simp only [State.withBusy_csCount, hcore.csCount, State.withCs_csCount, BitVec.toNat_add, BitVec.toNat_ofNat]
      omega
    | ended hidle hnone => rw [hidle] at hp; cases hp

theorem Balanced.accounted {s t : State} {o : Host.Outcome State Fault Refusal} (h : Balanced s o) (hidle : s.busy = none)
    (ho : o = .next t) : DepthAccounted s t := by
  cases h with
  | refuses k => cases ho; exact SameDepth.accounted ⟨rfl, rfl⟩ hidle
  | stops q => cases ho
  | runs hb => exact (command_sameDepth hb ho).accounted hidle
  | handles hb => exact (handler_sameDepth hb ho).accounted hidle
  | starts op => exact startCommand_accounted ho

/-- Settles O17: every instruction but the two is given its meaning by a section around a body that keeps the depth, or it is an
estimator command, which enters and leaves its sections by the same number. -/
theorem depthBalanced : Obligations.DepthBalanced := fun _ s _ hidle h henter hexit =>
  (exec_balanced s henter hexit).accounted hidle h

end Sys2Proof.Machine
end

section
/-! SUPPORT. The moving average: what a channel holds after a run of samples, and the three filter commands (41_moving_average.md R140
to R143). -/

namespace Sys2Proof.Machine

open Sys2Proof

/-! ### One sample (R141) -/

/-- Settles O20. -/
theorem filterAddRule : Obligations.FilterAddRule := fun _ _ => ⟨fun h => if_pos h, fun h => if_neg h⟩

/-! ### A run of samples (R143) -/

@[simp] theorem Filter.live_length (m : Filter) : m.live.length = m.fill := by
  simp [Filter.live]

/-- The last `cap` entries of a list with one more behind, where fewer than `cap` stood before. -/
theorem drop_concat_of_short {xs : List Fx} {cap : Nat} (x : Fx) (h : xs.length < cap) :
    (xs ++ [x]).drop ((xs ++ [x]).length - cap) = xs.drop (xs.length - cap) ++ [x] := by
  have hold : xs.length - cap = 0 := by omega
  have hnew : (xs ++ [x]).length - cap = 0 := by rw [List.length_append, List.length_singleton]; omega
  rw [hold, hnew, List.drop_zero, List.drop_zero]

/-- The last `cap` entries of a list with one more behind: the oldest of them is gone. -/
theorem drop_concat_of_long {xs l : List Fx} {cap : Nat} {old : Fx} (x : Fx) (h : cap ≤ xs.length)
    (hlast : xs.drop (xs.length - cap) = old :: l) :
    (xs ++ [x]).drop ((xs ++ [x]).length - cap) = l ++ [x] := by
  have hnew : (xs ++ [x]).length - cap = xs.length - cap + 1 := by rw [List.length_append, List.length_singleton]; omega
  have hmem : xs.length - cap + 1 ≤ xs.length := by
    have := congrArg List.length hlast
    simp only [List.length_drop, List.length_cons] at this
    omega
  rw [hnew, List.drop_append_of_le_length hmem, ← List.tail_drop, hlast, List.tail_cons]

/-- What a channel of capacity `cap` is after the samples `xs`: in order, with the last `cap` of them live. -/
structure Filter.Holds (m : Filter) (cap : Nat) (xs : List Fx) : Prop where
  ok : m.Ok cap
  capacity : m.cap = cap
  live : m.live = xs.drop (xs.length - cap)

theorem Filter.Holds.empty {cap : Nat} (hcap : 1 ≤ cap) : (Filter.empty cap).Holds cap [] :=
  ⟨Filter.empty_ok hcap le_rfl, rfl, List.drop_nil.symm⟩

theorem Filter.Holds.fill {m : Filter} {cap : Nat} {xs : List Fx} (h : m.Holds cap xs) :
    m.fill = min xs.length cap := by
  rw [← m.live_length, h.live, List.length_drop]
  omega

/-- One more sample: it joins the live ones while there is room, and takes the place of the oldest after that. -/
theorem Filter.Holds.add {m : Filter} {cap : Nat} {xs : List Fx} (h : m.Holds cap xs) (x : Fx) :
    (m.add x).Holds cap (xs ++ [x]) := by
  obtain ⟨hcap, -, -, hhead, hlen, -⟩ := h.ok
  have hfill := h.fill
  have hm := h.capacity
  refine ⟨h.ok.add x, by rw [Filter.add_cap, hm], ?_⟩
  by_cases hfull : m.fill = m.cap
  · obtain ⟨l, hlive, hlive'⟩ := Filter.live_add_of_full x hcap hfull hhead hlen
    rw [hlive', drop_concat_of_long x (by omega) (h.live.symm.trans hlive)]
  · rw [Filter.live_add_of_room x (by omega) hhead hlen, h.live, drop_concat_of_short x (by omega)]

theorem Filter.holds_foldl {cap : Nat} (hcap : 1 ≤ cap) (xs : List Fx) :
    (xs.foldl Filter.add (Filter.empty cap)).Holds cap xs := by
  induction xs using List.reverseRecOn with
  | nil => exact .empty hcap
  | append_singleton xs x ih => rw [List.foldl_concat]; exact ih.add x

/-- The mean of a channel is that of the last `cap` samples (R142, R143). -/
theorem Filter.Holds.value {m : Filter} {cap : Nat} {xs : List Fx} (h : m.Holds cap xs) :
    m.value = tdiv (xs.drop (xs.length - cap)).sum (max (min xs.length cap) 1 : Nat) := by
  obtain ⟨-, -, -, -, -, hsum⟩ := h.ok
  rw [Filter.value, fxdivi, hsum, h.live, h.fill]

/-- Settles O21: after the run the sum is that of the last `cap` samples and the fill their number. -/
theorem movingAverageMean : Obligations.MovingAverageMean := by
  intro cap xs hcap
  have hvalue := (Filter.holds_foldl hcap xs).value
  refine ⟨fun hsome hfit => ?_, fun hmore => ?_⟩
  · have hn : max (min xs.length cap) 1 = xs.length := by omega
    rw [hvalue, hn, Nat.sub_eq_zero_of_le hfit, List.drop_zero]
  · have hn : max (min xs.length cap) 1 = cap := by omega
    rw [hvalue, hn]

/-! ### The filter commands (R140 to R142) -/

theorem CanEnter.ne_full {n : Nat} {s : State} (h : CanEnter (n + 1) s) : s.csCount ≠ 255 := by
  unfold CanEnter at h
  bv_omega

/-- A command whose body stops stops with it. -/
theorem command_fault {body : State → Except Fault (Reply × State)} {s : State} {f : Fault} (h : s.csCount ≠ 255)
    (hb : body (s.withCs (s.csCount + 1)) = .error f) : command body s = .fault f := by
  have hs : inSection body s = .error f := by rw [inSection, csEnter_ok_iff.mpr ⟨h, rfl⟩]; simp only [hb]
  rw [command, hs, answer]

theorem maAdd_of_fits {ch : Chan} {x : Fx} {s : State} (h : SampleFits ch x s) : maAdd ch x s = .ok (fed ch x s) :=
  maAdd_ok_iff.mpr ⟨h.1, h.2, rfl⟩

theorem maAdd_of_not_fits {ch : Chan} {x : Fx} {s : State} (h : ¬ SampleFits ch x s) :
    maAdd ch x s = .error .fxOverflow :=
  if_neg (by rwa [Bool.and_eq_true])

theorem execMacfg_of_legal {ch : Chan} {cap : Word} {s : State} (h : s.csCount ≠ 255)
    (hcap : 1 ≤ cap.toNat ∧ cap.toNat ≤ s.cfg.maMaxCap) :
    execMacfg ch cap s = .next ((maConfigure ch cap.toNat s).respond .ok 0) := by
  rw [execMacfg, if_pos hcap, command_balanced h rfl rfl]
  rfl

theorem execMacfg_of_illegal {ch : Chan} {cap : Word} {s : State} (hcap : cap.toNat = 0 ∨ s.cfg.maMaxCap < cap.toNat) :
    execMacfg ch cap s = .next (s.respond .illegalOperand 0) :=
  if_neg (by omega)

theorem execMaadd_of_fits {ch : Chan} {b : U32} {s : State} (h : s.csCount ≠ 255) (hfits : SampleFits ch b.toInt s) :
    execMaadd ch b s = .next ((fed ch b.toInt s).respond .ok 0) := by
  have hadd : maAdd ch (q1516 b) (s.withCs (s.csCount + 1)) = .ok (fed ch b.toInt (s.withCs (s.csCount + 1))) :=
    maAdd_of_fits hfits
  rw [execMaadd, command_balanced h (by rw [hadd]) rfl]
  rfl

theorem execMaadd_of_not_fits {ch : Chan} {b : U32} {s : State} (h : s.csCount ≠ 255)
    (hfits : ¬ SampleFits ch b.toInt s) : execMaadd ch b s = .fault .fxOverflow := by
  have hadd : maAdd ch (q1516 b) (s.withCs (s.csCount + 1)) = .error .fxOverflow := maAdd_of_not_fits hfits
  exact command_fault h (by rw [hadd])

theorem execMaval_eq (ch : Chan) {s : State} (h : s.csCount ≠ 255) :
    execMaval ch s = .next (s.respond .ok (dataOfInt (maValue ch s))) := by
  rw [execMaval, command_balanced h rfl rfl]
  rfl

/-- Settles O19. -/
theorem filterCommands : Obligations.FilterCommands := by
  intro ch cap b s hroom
  have h : s.csCount ≠ 255 := hroom.ne_full
  exact ⟨fun hpos hmax => execMacfg_of_legal h ⟨hpos, hmax⟩, execMacfg_of_illegal, execMaadd_of_fits h,
    execMaadd_of_not_fits h, execMaval_eq ch h⟩

end Sys2Proof.Machine
end

section
/-! SUPPORT. Which filter channels an instruction may write (41_moving_average.md R144). `FeedsOnly` is the frame: from one state to
another every channel outside a list is as it was. The estimator commands reach it through `EstimatorStep`, everything an attempt of
their blocking read can do. -/

namespace Sys2Proof.Machine

open Sys2Proof

/-- From `s` to `t` every channel outside the list is unchanged. -/
def FeedsOnly (chs : List Chan) (s t : State) : Prop := ∀ ch, ch ∉ chs → t.ma.get ch = s.ma.get ch

theorem FeedsOnly.of_ma_eq {chs : List Chan} {s t : State} (h : t.ma = s.ma) : FeedsOnly chs s t :=
  fun ch _ => congrArg (Bank.get · ch) h

theorem FeedsOnly.trans {chs : List Chan} {s t u : State} (h : FeedsOnly chs s t) (k : FeedsOnly chs t u) :
    FeedsOnly chs s u :=
  fun ch hch => (k ch hch).trans (h ch hch)

theorem FeedsOnly.trans_ma_eq {chs : List Chan} {s t u : State} (h : FeedsOnly chs s t) (hma : u.ma = t.ma) :
    FeedsOnly chs s u :=
  h.trans (.of_ma_eq hma)

theorem FeedsOnly.mono {chs chs' : List Chan} {s t : State} (h : FeedsOnly chs s t) (hsub : chs ⊆ chs') :
    FeedsOnly chs' s t :=
  fun ch hch => h ch fun hmem => hch (hsub hmem)

theorem withMa_set_feedsOnly (ch : Chan) (m : Filter) (s : State) : FeedsOnly [ch] s (s.withMa (s.ma.set ch m)) :=
  fun _ hch => Bank.get_set_other s.ma m (List.ne_of_not_mem_cons hch)

theorem maAdd_feedsOnly {ch : Chan} {x : Fx} {s t : State} (h : maAdd ch x s = .ok t) : FeedsOnly [ch] s t := by
  obtain ⟨-, -, rfl⟩ := maAdd_ok_iff.mp h
  exact withMa_set_feedsOnly ch _ s

/-! ### The estimator commands -/

theorem angleSample_feedsOnly {w : Word} {s t : State} {a : Fx} (h : angleSample w s = .ok (a, t)) :
    FeedsOnly [.angle] s t := by
  unfold angleSample at h
  split at h
  next => cases h
  next hm => cases h; exact maAdd_feedsOnly hm

theorem absAngleSample_feedsOnly {rev w : Word} {s t : State} {a : Fx} (h : absAngleSample rev w s = .ok (a, t)) :
    FeedsOnly [.angle, .absAngle] s t := by
  unfold absAngleSample at h
  split at h
  next => cases h
  next hs =>
    split at h
    next => cases h
    next =>
      split at h
      next => cases h
      next hm => cases h; exact ((angleSample_feedsOnly hs).mono (by simp)).trans ((maAdd_feedsOnly hm).mono (by simp))

theorem derivative_feedsOnly {ch : Chan} {a : Fx} {num den : Int} {now : U32} {s t : State} {r : Reply}
    (h : derivative ch a num den now s = .ok (r, t)) : FeedsOnly [ch] s t := by
  unfold derivative at h
  split at h
  next => cases h
  next =>
    split at h
    next => cases h
    next hm => cases h; exact (maAdd_feedsOnly hm).trans_ma_eq rfl

/-- An absolute angle sample and then a derivative estimate into `ch` (43_motion_estimator.md R187, R189). -/
theorem absAngleSample_derivative_feedsOnly {rev w : Word} {ch : Chan} {a a' : Fx} {num den : Int} {now : U32} {s u t : State}
    {r : Reply} (hs : absAngleSample rev w s = .ok (a, u)) (hd : derivative ch a' num den now u = .ok (r, t)) :
    FeedsOnly [.angle, .absAngle, ch] s t :=
  ((absAngleSample_feedsOnly hs).mono (by simp)).trans ((derivative_feedsOnly hd).mono (by simp))

/-- The channels an estimator command feeds once its words are read (R144). -/
def EstOp.feeds : EstOp → List Chan
  | .angle _ => [.angle]
  | .arev => []
  | .aangle => [.angle, .absAngle]
  | .speedDiff => [.angle, .absAngle, .speed]
  | .speedReg => [.speed]
  | .accel => [.angle, .absAngle, .accel]
  | .temp => [.temp]
  | .zero => [.angle]

theorem finishOp_feedsOnly {op : EstOp} {now : U32} {rev : Word} {d : List Word} {s t : State} {r : Reply}
    (h : finishOp op now rev d s = .ok (r, t)) : FeedsOnly op.feeds s t := by
  cases op with
  | angle u =>
    simp only [finishOp, finishAngle] at h
    split at h
    next => cases h
    next hs => cases h; exact angleSample_feedsOnly hs
  | arev => cases h; exact .of_ma_eq rfl
  | aangle =>
    simp only [finishOp, finishAangle] at h
    split at h
    next => cases h
    next hs => cases h; exact absAngleSample_feedsOnly hs
  | speedDiff =>
    simp only [finishOp, finishSpeedDiff] at h
    split_ifs at h
    split at h
    next => cases h
    next hs => exact absAngleSample_derivative_feedsOnly hs h
  | speedReg =>
    simp only [finishOp, finishSpeedReg] at h
    split at h
    next => cases h
    next hm => cases h; exact maAdd_feedsOnly hm
  | accel =>
    simp only [finishOp, finishAccel] at h
    split_ifs at h
    split at h
    next => cases h
    next hs => exact absAngleSample_derivative_feedsOnly hs h
  | temp =>
    simp only [finishOp, finishTemp] at h
    split at h
    next => cases h
    next u hm => cases h; exact (maAdd_feedsOnly hm).trans_ma_eq (otEval_outside _ _ u).ma
  | zero =>
    simp only [finishOp, finishZero] at h
    split at h
    next => cases h
    next hs =>
      split at h
      next => cases h
      next => cases h; exact (angleSample_feedsOnly hs).trans_ma_eq rfl

/-- Everything an attempt of `op` can do (43_motion_estimator.md R180): after its reads, which keep the core, the command waits on; or it
ends with its retries spent; or it ends with its words read and put to use. -/
inductive EstimatorStep (op : EstOp) (now : U32) (s : State) : State → Prop
  | waits {u : State} (p : Option InFlight) (hread : SameCore s u) : EstimatorStep op now s (u.withBusy p)
  | exhausted {u : State} (n : BitVec 8) (k : Status) (data : Long) (hread : SameCore s u) :
      EstimatorStep op now s (((u.withBusy none).withCs n).respond k data)
  | finished {u v : State} {rev : Word} {d : List Word} {r : Reply} (n : BitVec 8) (hread : SameCore s u)
      (hf : finishOp op now rev d u = .ok (r, v)) :
      EstimatorStep op now s (((v.withBusy none).withCs n).respond r.status r.data)

theorem EstimatorStep.after {op : EstOp} {now : U32} {s u t : State} (h : SameCore s u) (k : EstimatorStep op now u t) :
    EstimatorStep op now s t := by
  cases k with
  | waits p hread => exact .waits p (h.trans hread)
  | exhausted n k data hread => exact .exhausted n k data (h.trans hread)
  | finished n hread hf => exact .finished n (h.trans hread) hf

theorem afterFailure_estimatorStep {p : InFlight} {s t : State} (h : afterFailure p s = .next t) :
    EstimatorStep p.op p.now s t := by
  unfold afterFailure at h
  dsimp only at h
  split at h
  next => cases h; exact .waits _ (.refl s)
  next =>
    split_ifs at h
    · rw [endCommand_next h]; exact .exhausted _ _ _ (.refl s)
    · cases h; exact .waits _ (.refl s)

theorem attemptLast_estimatorStep {p : InFlight} {rev : Word} {s t : State} (h : attemptLast p rev s = .next t) :
    EstimatorStep p.op p.now s t := by
  unfold attemptLast at h
  dsimp only at h
  split at h
  next => cases h
  next hr =>
    obtain ⟨-, hcore, -⟩ := readRegister_ok hr
    refine .after hcore ?_
    split_ifs at h
    · split at h
      next => cases h
      next hf => rw [endCommand_next h]; exact .finished _ (.refl _) hf
    · exact afterFailure_estimatorStep h

theorem attempt_estimatorStep {p : InFlight} {s t : State} (h : attempt p s = .next t) :
    EstimatorStep p.op p.now s t := by
  unfold attempt at h
  split at h
  next =>
    split at h
    next => cases h
    next hr =>
      obtain ⟨-, hcore, -⟩ := readRegister_ok hr
      refine .after hcore ?_
      split_ifs at h
      · exact (attemptLast_estimatorStep h :)
      · exact afterFailure_estimatorStep h
  next => exact attemptLast_estimatorStep h
  next => exact attemptLast_estimatorStep h

/-- An estimator command is one attempt, from the state with its sections entered. -/
theorem startCommand_estimatorStep {op : EstOp} {s t : State} (h : startCommand op s = .next t) :
    ∃ n, EstimatorStep op s.env.now (s.withCs n) t := by
  unfold startCommand at h
  split at h
  next => cases h
  next he =>
    obtain ⟨-, rfl⟩ := csEnterMany_ok_iff.mp he
    exact ⟨_, attempt_estimatorStep h⟩

theorem EstimatorStep.feedsOnly {op : EstOp} {now : U32} {s t : State} (h : EstimatorStep op now s t) :
    FeedsOnly op.feeds s t := by
  cases h with
  | waits p hread => exact .of_ma_eq hread.ma
  | exhausted n k data hread => exact .of_ma_eq hread.ma
  | finished n hread hf => exact (FeedsOnly.of_ma_eq hread.ma).trans ((finishOp_feedsOnly hf).trans_ma_eq rfl)

theorem startCommand_feedsOnly {op : EstOp} {s t : State} (h : startCommand op s = .next t) : FeedsOnly op.feeds s t := by
  obtain ⟨n, hstep⟩ := startCommand_estimatorStep h
  exact hstep.feedsOnly

/-! ### The bodies of the register protocol keep the core -/

theorem readBody_sameCore {reg : RegNum} {n : BitVec 4} {safe : Bool} {data : List Word → Long} {s t : State} {r : Reply}
    (h : readBody reg n safe data s = .ok (r, t)) : SameCore s t := by
  unfold readBody at h
  split at h
  next => cases h
  next hr =>
    cases h
    obtain ⟨-, hcore, -⟩ := readRegister_ok hr
    exact hcore

theorem getField_sameCore {f : Descriptor} {s t : State} {r : Reply} (h : getField f s = .ok (r, t)) : SameCore s t := by
  unfold getField at h
  split at h
  next =>
    split at h
    next => cases h
    next hr =>
      obtain ⟨-, hcore, -⟩ := readRegister_ok hr
      split at h
      next => cases h
      next => cases h; exact hcore
  next => cases h; exact .refl s

theorem setSlot_sameCore (s : State) (i : Byte) (w : Word) : SameCore s (s.setSlot i w) :=
  ⟨rfl, rfl, rfl, rfl, rfl, rfl, rfl, rfl, rfl⟩

theorem setField_sameCore {f : Descriptor} {x : Word} {s t : State} {r : Reply} (h : setField f x s = .ok (r, t)) :
    SameCore s t := by
  unfold setField at h
  split at h
  next =>
    split at h
    next => cases h
    next => cases h; exact (setSlot_sameCore s _ _).trans (memWrite_sameCore _ _ _)
  next => cases h; exact .refl s

/-! ### Commands and handlers -/

theorem command_feedsOnly {chs : List Chan} {body : State → Except Fault (Reply × State)} {s t : State}
    (h : command body s = .next t) (hb : ∀ s1 r u, body s1 = .ok (r, u) → FeedsOnly chs s1 u) : FeedsOnly chs s t := by
  obtain ⟨-, r, u, hu, -, rfl⟩ := command_next_iff.mp h
  have hbody : FeedsOnly chs (s.withCs (s.csCount + 1)) u := hb _ r u hu
  exact hbody.trans_ma_eq rfl

/-- A command whose body cannot fail. -/
theorem command_ok_feedsOnly {chs : List Chan} {reply : State → Reply} {next : State → State} {s t : State}
    (h : command (fun s1 => .ok (reply s1, next s1)) s = .next t) (hn : ∀ s1, FeedsOnly chs s1 (next s1)) :
    FeedsOnly chs s t :=
  command_feedsOnly h (by rintro s1 r u ⟨⟩; exact hn s1)

theorem handler_feedsOnly {chs : List Chan} {body : State → Except Fault State} {s t : State}
    (h : handler body s = .next t) (hb : ∀ s1 u, body s1 = .ok u → SameOutside s1 u) : FeedsOnly chs s t := by
  obtain ⟨-, u, hu, -, rfl⟩ := handler_next_iff.mp h
  exact .of_ma_eq (hb _ u hu).ma

theorem refuseCommand_feedsOnly {chs : List Chan} {k : Status} {s t : State} (h : refuseCommand k s = .next t) :
    FeedsOnly chs s t := by
  cases h
  exact .of_ma_eq rfl

/-! ### The instructions with a choice of their own -/

theorem execCsenter_feedsOnly {chs : List Chan} {s t : State} (h : execCsenter s = .next t) : FeedsOnly chs s t := by
  unfold execCsenter at h
  split at h
  next => cases h
  next he =>
    obtain ⟨-, rfl⟩ := csEnter_ok_iff.mp he
    cases h
    exact .of_ma_eq rfl

theorem execCsexit_feedsOnly {chs : List Chan} {s t : State} (h : execCsexit s = .next t) : FeedsOnly chs s t := by
  unfold execCsexit at h
  split at h
  next => cases h
  next he =>
    obtain ⟨-, rfl⟩ := csExit_ok_iff.mp he
    cases h
    exact .of_ma_eq rfl

theorem execMacfg_feedsOnly {ch : Chan} {cap : Word} {s t : State} (h : execMacfg ch cap s = .next t) :
    FeedsOnly [ch] s t := by
  unfold execMacfg at h
  split_ifs at h
  · exact command_ok_feedsOnly h fun s1 => withMa_set_feedsOnly ch _ s1
  · exact refuseCommand_feedsOnly h

theorem execMaadd_feedsOnly {ch : Chan} {x : U32} {s t : State} (h : execMaadd ch x s = .next t) :
    FeedsOnly [ch] s t := by
  refine command_feedsOnly h fun s1 r u hb => ?_
  split at hb
  next => cases hb
  next hm => cases hb; exact maAdd_feedsOnly hm

theorem execRdburst_feedsOnly {chs : List Chan} {safe : Bool} {reg : RegNum} {n : BitVec 4} {s t : State}
    (h : execRdburst safe reg n s = .next t) : FeedsOnly chs s t := by
  unfold execRdburst at h
  split_ifs at h
  · exact refuseCommand_feedsOnly h
  · exact command_feedsOnly h fun _ _ _ hb => .of_ma_eq (readBody_sameCore hb).ma

theorem execGetbf_feedsOnly {chs : List Chan} {idx : Byte} {s t : State} (h : execGetbf idx s = .next t) :
    FeedsOnly chs s t := by
  unfold execGetbf at h
  split at h
  next => exact refuseCommand_feedsOnly h
  next => exact command_feedsOnly h fun _ _ _ hb => .of_ma_eq (getField_sameCore hb).ma

theorem execSetbf_feedsOnly {chs : List Chan} {idx : Byte} {v : Word} {s t : State} (h : execSetbf idx v s = .next t) :
    FeedsOnly chs s t := by
  unfold execSetbf at h
  split at h
  next => exact refuseCommand_feedsOnly h
  next => exact command_feedsOnly h fun _ _ _ hb => .of_ma_eq (setField_sameCore hb).ma

theorem execTxbld_feedsOnly {chs : List Chan} {e : TxbElem} {v : Word} {s t : State} (h : execTxbld e v s = .next t) :
    FeedsOnly chs s t := by
  unfold execTxbld at h
  split_ifs at h
  · exact command_ok_feedsOnly h fun _ => .of_ma_eq rfl
  · exact refuseCommand_feedsOnly h

theorem execSched_feedsOnly {chs : List Chan} {dir : Dir} {rate : Word} {n : U32} {s t : State}
    (h : execSched dir rate n s = .next t) : FeedsOnly chs s t := by
  unfold execSched at h
  split_ifs at h
  · exact refuseCommand_feedsOnly h
  · exact refuseCommand_feedsOnly h
  · exact command_ok_feedsOnly h fun _ => .of_ma_eq rfl

/-- Which channels `SPEED` feeds is its strategy's choice (43_motion_estimator.md R187, R188). -/
theorem execSpeed_feedsOnly {s t : State} (h : execSpeed s = .next t) : FeedsOnly (channelsOf s.cfg .speed) s t := by
  unfold execSpeed at h
  split at h
  next hstrategy => rw [channelsOf, hstrategy]; exact startCommand_feedsOnly h
  next hstrategy => rw [channelsOf, hstrategy]; exact startCommand_feedsOnly h

theorem execTemp_feedsOnly {s t : State} (h : execTemp s = .next t) : FeedsOnly [.temp] s t := by
  unfold execTemp at h
  split_ifs at h
  exact startCommand_feedsOnly h

theorem execEvSched_feedsOnly {chs : List Chan} {s t : State} (h : execEvSched s = .next t) : FeedsOnly chs s t := by
  refine handler_feedsOnly h fun s1 u hb => ?_
  cases hb
  split_ifs
  · exact schedFire_outside s1
  · exact .refl s1

theorem execEvFine_feedsOnly {chs : List Chan} {s t : State} (h : execEvFine s = .next t) : FeedsOnly chs s t := by
  refine handler_feedsOnly h fun s1 u hb => ?_
  cases hb
  split_ifs
  · exact issueStep_outside _ _ s1
  · exact .refl s1

/-! ### Every instruction -/

/-- An instruction feeds no channel outside the table of R144. -/
theorem exec_feedsOnly {i : Instr} {s t : State} (h : exec i s = .next t) : FeedsOnly (channelsOf s.cfg i) s t := by
  cases i with
  | csenter => exact execCsenter_feedsOnly h
  | csexit => exact execCsexit_feedsOnly h
  | macfg => exact execMacfg_feedsOnly h
  | maadd => exact execMaadd_feedsOnly h
  | rdreg => exact command_feedsOnly h fun _ _ _ hb => .of_ma_eq (readBody_sameCore hb).ma
  | rdburst => exact execRdburst_feedsOnly h
  | wrreg => exact command_ok_feedsOnly h fun s1 => .of_ma_eq (memWrite_sameCore _ _ s1).ma
  | getbf => exact execGetbf_feedsOnly h
  | setbf => exact execSetbf_feedsOnly h
  | valsafe => exact command_ok_feedsOnly h fun s1 => .of_ma_eq (validateAndReset_sameCore s1).ma
  | sreset => exact command_ok_feedsOnly h fun s1 => .of_ma_eq (safetyReset_sameCore s1).ma
  | txbld => exact execTxbld_feedsOnly h
  | angle | arev | aangle | accel | zero => exact startCommand_feedsOnly h
  | speed => exact execSpeed_feedsOnly h
  | temp => exact execTemp_feedsOnly h
  | setstate => exact command_ok_feedsOnly h fun s1 => .of_ma_eq (applySetState_outside _ _ s1).ma
  | sched => exact execSched_feedsOnly h
  | maval | txbrd | setofs | getstate | setcur | getcur | setdes | setpos | geterr | getpos | cten =>
    exact command_ok_feedsOnly h fun _ => .of_ma_eq rfl
  | evStepedge => exact handler_feedsOnly h (by rintro s1 u ⟨⟩; exact ⟨rfl, rfl, rfl, rfl, rfl, rfl, rfl, rfl, rfl, rfl⟩)
  | evSched => exact execEvSched_feedsOnly h
  | evTick => exact handler_feedsOnly h fun _ _ => tick_outside
  | evFine => exact execEvFine_feedsOnly h

/-- Settles O22. -/
theorem filterChannelsIndependent : Obligations.FilterChannelsIndependent :=
  fun _ _ _ ch h hch => exec_feedsOnly h ch hch

end Sys2Proof.Machine
end

section
/-! SUPPORT. The arithmetic of the register protocol: bit fields cut from and merged into a word (42_register_protocol.md R158,
R160, R168), and the checksum of a sequence of bytes (R151, R152, R169). -/

namespace Sys2Proof.Machine

open Sys2Proof

/-! ### Bit fields (R158, R160, R168) -/

/-- A 16-bit word moved down by `n` keeps at most `16 - n` bits. -/
theorem ushiftRight_lt_two_pow (w : Word) (n : BitVec 4) : (w >>> n.toNat).toNat < 2 ^ (16 - n.toNat) := by
  have hn : n.toNat ≤ 16 := by omega
  rw [BitVec.toNat_ushiftRight, Nat.shiftRight_eq_div_pow, Nat.div_lt_iff_lt_mul (Nat.two_pow_pos _), ← pow_add,
    Nat.sub_add_cancel hn]
  exact w.isLt

/-- A value moved up and down again is the value, where no bit falls off the word. -/
theorem shiftLeft_ushiftRight_of_fits {x : Word} {n : Nat} (h : x.toNat * 2 ^ n < 2 ^ 16) : x <<< n >>> n = x := by
  apply BitVec.eq_of_toNat_eq
  rw [BitVec.toNat_ushiftRight, BitVec.toNat_shiftLeft, Nat.shiftLeft_eq, Nat.mod_eq_of_lt h, Nat.shiftRight_eq_div_pow,
    Nat.mul_div_cancel _ (Nat.two_pow_pos _)]

/-- A bit of a merged word: inside the mask that of the new value, outside it the old one (R160). -/
theorem mergeField_getLsbD (f : Descriptor) (w x : Word) {i : Nat} (hi : i < 16) :
    (mergeField f w x).getLsbD i =
      if f.mask.getLsbD i then decide (f.offset.toNat ≤ i) && x.getLsbD (i - f.offset.toNat) else w.getLsbD i := by
  have hshift : (x <<< f.offset.toNat).getLsbD i = (decide (f.offset.toNat ≤ i) && x.getLsbD (i - f.offset.toNat)) := by
    rw [BitVec.getLsbD_shiftLeft, decide_eq_true hi, Bool.true_and, ← decide_not, decide_eq_decide.mpr Nat.not_lt]
  rw [mergeField, BitVec.getLsbD_or, BitVec.getLsbD_and, BitVec.getLsbD_and, BitVec.getLsbD_not, hshift]
  cases f.mask.getLsbD i <;> simp [hi]

/-- Inside the mask a merged word is the new value moved to the offset, where that value stays inside the mask. -/
theorem mergeField_and_mask {f : Descriptor} {x : Word} (w : Word) (h : (x <<< f.offset.toNat) &&& ~~~ f.mask = 0) :
    mergeField f w x &&& f.mask = x <<< f.offset.toNat := by
  apply BitVec.eq_of_getLsbD_eq
  intro i hi
  have hbit : ((x <<< f.offset.toNat) &&& ~~~ f.mask).getLsbD i = false := by rw [h]; exact BitVec.getLsbD_zero
  rw [BitVec.getLsbD_and, BitVec.getLsbD_not] at hbit
  rw [mergeField, BitVec.getLsbD_and, BitVec.getLsbD_or, BitVec.getLsbD_and, BitVec.getLsbD_and, BitVec.getLsbD_not]
  cases hm : f.mask.getLsbD i with
  | false =>
    simp only [hm, hi, decide_true, Bool.not_false, Bool.and_true] at hbit
    rw [Bool.and_false, hbit]
  | true => simp

/-- A value that fits the field comes back from the merged word (R168). -/
theorem extractField_mergeField {f : Descriptor} {x : Word} (w : Word) (hfits : x.toNat * 2 ^ f.offset.toNat < 2 ^ 16)
    (hmask : (x <<< f.offset.toNat) &&& ~~~ f.mask = 0) : extractField f (mergeField f w x) = x := by
  rw [extractField, mergeField_and_mask w hmask, shiftLeft_ushiftRight_of_fits hfits]

/-- Settles O32. -/
theorem fieldArithmetic : Obligations.FieldArithmetic := fun f w x =>
  ⟨rfl, ushiftRight_lt_two_pow _ _, fun i => mergeField_getLsbD f w x i.isLt, extractField_mergeField w⟩

/-! ### The shift register of the checksum (R151) -/

theorem crcShift_eq (poly r : Byte) : crcShift poly r = if r.msb then (r <<< 1) ^^^ poly else r <<< 1 := by
  rw [crcShift, BitVec.msb_eq_getLsbD_last]

theorem crcShifts_eq_iterate (poly : Byte) (n : Nat) (r : Byte) : crcShifts poly n r = (crcShift poly)^[n] r := by
  induction n generalizing r with
  | zero => rfl
  | succ n ih => exact ih _

/-- The shifts for one byte, as the rule's loop counts them. -/
theorem crcShifts_eq_foldl (poly : Byte) (n : Nat) (r : Byte) : crcShifts poly n r =
    (List.range n).foldl (fun r _ => if r.msb then (r <<< 1) ^^^ poly else r <<< 1) r := by
  simp only [← crcShift_eq]
  rw [crcShifts_eq_iterate, List.foldl_const, List.length_range]

theorem crcBytes_eq_foldl (poly r : Byte) (bytes : List Byte) :
    crcBytes poly r bytes = bytes.foldl (fun r b => crcShifts poly 8 (r ^^^ b)) r := by
  induction bytes generalizing r with
  | nil => rfl
  | cons b bs ih => exact ih _

theorem crcBytes_append (poly r : Byte) (xs ys : List Byte) :
    crcBytes poly r (xs ++ ys) = crcBytes poly (crcBytes poly r xs) ys := by
  simp only [crcBytes_eq_foldl, List.foldl_append]

theorem bytesOf_eq_flatMap (ws : List Word) : bytesOf ws = ws.flatMap (fun w => [hi8 w, lo8 w]) := by
  induction ws with
  | nil => rfl
  | cons w ws ih => rw [bytesOf, ih]; rfl

/-! ### A flipped bit changes the checksum (R169) -/

/-- With bit 0 of the polynomial set a shift moves the register's top bit to its bottom. -/
theorem crcShift_getLsbD_zero {poly : Byte} (hpoly : poly.getLsbD 0 = true) (r : Byte) :
    (crcShift poly r).getLsbD 0 = r.getLsbD 7 := by
  unfold crcShift
  split
  next htop => rw [BitVec.getLsbD_xor, BitVec.getLsbD_shiftLeft, hpoly, htop]; simp
  next htop => rw [BitVec.getLsbD_shiftLeft, Bool.eq_false_of_not_eq_true htop]; simp

/-- With bit 0 of the polynomial set a shift loses nothing: the bottom bit says whether the polynomial was added. -/
theorem crcShift_injective {poly : Byte} (hpoly : poly.getLsbD 0 = true) : Function.Injective (crcShift poly) := by
  intro a b hab
  have htop : a.getLsbD 7 = b.getLsbD 7 := by
    rw [← crcShift_getLsbD_zero hpoly, ← crcShift_getLsbD_zero hpoly, hab]
  have hshift : a <<< 1 = b <<< 1 := by
    unfold crcShift at hab
    rw [htop] at hab
    split at hab
    · exact (BitVec.xor_left_inj poly).mp hab
    · exact hab
  apply BitVec.eq_of_getLsbD_eq
  intro i hi
  by_cases hlast : i = 7
  · rw [hlast, htop]
  · have hi' : i + 1 < 8 := by omega
    have hbit : (a <<< 1).getLsbD (i + 1) = (b <<< 1).getLsbD (i + 1) := by rw [hshift]
    simpa only [BitVec.getLsbD_shiftLeft, hi', decide_true, Bool.true_and, Nat.not_lt.mpr (Nat.le_add_left 1 i),
      decide_false, Bool.not_false, Nat.add_sub_cancel] using hbit

theorem crcShifts_injective {poly : Byte} (hpoly : poly.getLsbD 0 = true) (n : Nat) :
    Function.Injective (crcShifts poly n) := by
  rw [funext (crcShifts_eq_iterate poly n)]
  exact (crcShift_injective hpoly).iterate n

/-- Two registers that differ stay different over the same bytes. -/
theorem crcBytes_injective {poly : Byte} (hpoly : poly.getLsbD 0 = true) (bytes : List Byte) :
    Function.Injective (fun r => crcBytes poly r bytes) := by
  induction bytes with
  | nil => exact Function.injective_id
  | cons b bs ih =>
    intro x y hxy
    exact (BitVec.xor_left_inj b).mp (crcShifts_injective hpoly 8 (ih hxy))

/-- The checksum tells apart two sequences that differ in one byte. -/
theorem checksum_ne_of_byte_ne {c : Cfg} (hpoly : c.crcPoly.getLsbD 0 = true) (before after : List Byte) {b b' : Byte}
    (hb : b ≠ b') : checksum c (before ++ [b] ++ after) ≠ checksum c (before ++ [b'] ++ after) := by
  intro h
  have hreg := BitVec.not_inj.mp h
  simp only [crcBytes_append] at hreg
  exact hb ((BitVec.xor_right_inj _).mp (crcShifts_injective hpoly 8 (crcBytes_injective hpoly after hreg)))

/-- A byte with one bit flipped is another byte. -/
theorem ne_xor_bit (b : Byte) (k : Fin 8) : b ≠ b ^^^ (1#8 <<< k.val) := by
  have hbit : (1#8 <<< k.val) ≠ 0 := by revert k; decide
  intro h
  exact hbit ((BitVec.xor_right_inj b).mp (h.symm.trans BitVec.xor_zero.symm))

/-- Settles O35: the bytes and the value are those of the rule's loops; two registers that differ never meet again. -/
theorem crcDetectsSingleBit : Obligations.CrcDetectsSingleBit := by
  refine ⟨fun t => bytesOf_eq_flatMap _, fun c bytes => ?_, by decide +kernel, by decide, by decide,
    fun c before after b k hpoly => checksum_ne_of_byte_ne hpoly before after (ne_xor_bit b k)⟩
  simp only [checksum, crcBytes_eq_foldl, crcShifts_eq_foldl]

end Sys2Proof.Machine
end

section
/-! SUPPORT. The validation of the transaction buffer, the safety reset after it, and the index map of the buffer
(42_register_protocol.md R153, R154, R165 to R167). -/

namespace Sys2Proof.Machine

open Sys2Proof

/-! ### Validation and its reset (R153, R154) -/

theorem raised_iff {c : Cfg} {bit : Nat} {w : Word} : raised c bit w = true ↔ w.getLsbD bit = c.safetyErrLevel := beq_iff_eq

section
variable {c : Cfg} {t : Txb}

theorem validate_of_sys (hsys : raised c c.safetyBitSys t.safety = true) : validate c t = .systemError := if_pos hsys

theorem validate_of_ifa (hsys : ¬ raised c c.safetyBitSys t.safety = true) (hifa : raised c c.safetyBitIf t.safety = true) :
    validate c t = .interfaceAccessError := by
  rw [validate, if_neg hsys, if_pos hifa]

theorem validate_of_inv (hsys : ¬ raised c c.safetyBitSys t.safety = true) (hifa : ¬ raised c c.safetyBitIf t.safety = true)
    (hinv : raised c c.safetyBitInv t.safety = true) : validate c t = .invalidAngleError := by
  rw [validate, if_neg hsys, if_neg hifa, if_pos hinv]

theorem validate_of_flags_clear (hsys : ¬ raised c c.safetyBitSys t.safety = true)
    (hifa : ¬ raised c c.safetyBitIf t.safety = true) (hinv : ¬ raised c c.safetyBitInv t.safety = true) :
    validate c t = if checksum c t.crcBytes ≠ lo8 t.safety then .crcMismatch else .ok := by
  rw [validate, if_neg hsys, if_neg hifa, if_neg hinv]

end

/-- Settles O33. -/
theorem validateOrder : Obligations.ValidateOrder := by
  intro c t
  simp only [← raised_iff]
  exact ⟨validate_of_sys, validate_of_ifa, validate_of_inv, fun hsys hifa hinv =>
    ⟨fun hcrc => (validate_of_flags_clear hsys hifa hinv).trans (if_pos hcrc),
      fun hcrc => (validate_of_flags_clear hsys hifa hinv).trans (if_neg (not_not.mpr hcrc))⟩⟩

/-- The kinds after which a safety reset is issued (R154). -/
theorem needsSafetyReset_iff {c : Cfg} {k : Status} : needsSafetyReset c k = true ↔
    k = .systemError ∨ k = .invalidAngleError ∨ (k = .interfaceAccessError ∧ c.safetyResetOnIface = true) := by
  simp only [needsSafetyReset, Bool.or_eq_true, Bool.and_eq_true, beq_iff_eq, or_assoc]

theorem validateAndReset_eq (s : State) : validateAndReset s =
    (validate s.cfg s.txb, if needsSafetyReset s.cfg (validate s.cfg s.txb) then safetyReset s else s) := rfl

/-- Settles O34. -/
theorem resetAfterError : Obligations.ResetAfterError := by
  intro s k
  rw [validateAndReset_eq]
  refine ⟨fun h => ?_, fun h => ?_⟩
  · rw [if_pos (needsSafetyReset_iff.mpr h)]
  · rw [if_neg (mt needsSafetyReset_iff.mp h)]

/-! ### Commands that read and write no depth -/

/-- A section whose body does inside what it would do outside: the depth is as before at its end. -/
theorem inSection_of_withCs {α : Type} {body : State → Except Fault (α × State)} {s u : State} {a : α} (h : s.csCount ≠ 255)
    (hb : body (s.withCs (s.csCount + 1)) = .ok (a, u.withCs (s.csCount + 1))) (hu : u.csCount = s.csCount) :
    inSection body s = .ok (a, u) := by
  rw [inSection_balanced h hb rfl, State.withCs_withCs, ← hu, State.withCs_same]

theorem command_of_withCs {body : State → Except Fault (Reply × State)} {s u : State} {k : Status} {d : Long}
    (h : s.csCount ≠ 255) (hb : body (s.withCs (s.csCount + 1)) = .ok (⟨k, d⟩, u.withCs (s.csCount + 1)))
    (hu : u.csCount = s.csCount) : command body s = .next (u.respond k d) := by
  rw [command, inSection_of_withCs h hb hu, answer]

theorem execValsafe_eq {s : State} (h : s.csCount ≠ 255) :
    execValsafe s = .next ((validateAndReset s).2.respond (validate s.cfg s.txb)
      (localChecksum s.cfg s.txb (validate s.cfg s.txb))) := by
  refine command_of_withCs h ?_ (validateAndReset_sameCore s).csCount
  rw [validateAndReset_withCs]
  rfl

/-- Settles O30. -/
theorem validateCommand : Obligations.ValidateCommand := fun _ hroom => execValsafe_eq hroom.ne_full

/-! ### The buffer's elements (R165 to R167) -/

theorem execTxbld_of_takes {e : TxbElem} {v : Word} {s : State} (h : s.csCount ≠ 255) (hv : e.takes v = true) :
    execTxbld e v s = .next ((s.withTxb (s.txb.write e v)).respond .ok 0) := by
  rw [execTxbld, if_pos hv]
  exact command_of_withCs h rfl rfl

theorem execTxbld_of_not_takes {e : TxbElem} {v : Word} {s : State} (hv : ¬ e.takes v = true) :
    execTxbld e v s = .next (s.respond .illegalOperand 0) :=
  if_neg hv

theorem execTxbrd_eq (e : TxbElem) {s : State} (h : s.csCount ≠ 255) :
    execTxbrd e s = .next (s.respond .ok ((s.txb.read e).setWidth 64)) :=
  command_of_withCs h rfl rfl

theorem TxbElem.takes_count_iff {v : Word} : TxbElem.count.takes v = true ↔ v.toNat ≤ 15 := decide_eq_true_iff

theorem Txb.read_data {t : Txb} {j : Fin 15} {w : Word} (h : t.data[j.val]? = some w) : t.read (.data j) = w := by
  rw [Txb.read, List.getD_eq_getElem?_getD, h, Option.getD_some]

theorem Txb.read_count (t : Txb) : (t.read .count).setWidth 64 = t.count.setWidth 64 :=
  BitVec.setWidth_setWidth (by decide)

/-- Settles O31. -/
theorem bufferCommands : Obligations.BufferCommands := by
  intro v j s hroom
  have h : s.csCount ≠ 255 := hroom.ne_full
  refine ⟨rfl, TxbElem.ofIndex_index (.data j), rfl, rfl, execTxbld_of_takes h rfl, execTxbld_of_takes h rfl,
    execTxbld_of_takes h rfl, fun hv => ?_, fun hv => ?_, execTxbrd_eq .cmd h, fun w hw => ?_, execTxbrd_eq .safety h, ?_⟩
  · rw [BitVec.ofNat_toNat]
    exact execTxbld_of_takes h (TxbElem.takes_count_iff.mpr hv)
  · exact execTxbld_of_not_takes (by rw [TxbElem.takes_count_iff]; omega)
  · rw [← Txb.read_data hw]
    exact execTxbrd_eq _ h
  · rw [← Txb.read_count]
    exact execTxbrd_eq _ h

end Sys2Proof.Machine
end

section
/-! SUPPORT. The register cache and the commands that read and write the sensor (42_register_protocol.md R150, R155 to R164). -/

namespace Sys2Proof.Machine

open Sys2Proof

/-! ### The cache (R155) -/

theorem slot_setSlot_self {s : State} {i : Byte} (w : Word) (h : i.toNat < s.cache.length) : (s.setSlot i w).slot i = some w := by
  simp [State.slot, State.setSlot, h]

theorem slot_setSlot_of_ne (s : State) {i j : Byte} (w : Word) (h : i ≠ j) : (s.setSlot i w).slot j = s.slot j := by
  have hij : i.toNat ≠ j.toNat := fun h' => h (BitVec.eq_of_toNat_eq h')
  simp [State.slot, State.setSlot, hij]

theorem cacheWord_of_slotOf {reg : RegNum} {w : Word} {s : State} {i : Byte} (h : s.cfg.slotOf reg = some i) :
    cacheWord reg w s = s.setSlot i w := by
  simp only [cacheWord, h]

theorem slot_cacheWord_of_ne {reg : RegNum} (w : Word) {s : State} {i : Byte} (h : s.cfg.slotOf reg ≠ some i) :
    (cacheWord reg w s).slot i = s.slot i := by
  cases hreg : s.cfg.slotOf reg with
  | none => simp only [cacheWord, hreg]
  | some j =>
    rw [cacheWord_of_slotOf hreg]
    exact slot_setSlot_of_ne s w fun hji => h (hji ▸ hreg)

@[simp] theorem cacheWord_cfg (reg : RegNum) (w : Word) (s : State) : (cacheWord reg w s).cfg = s.cfg := by
  rw [cacheWord_eq, State.withCache_cfg]

/-- Register `k` of the burst's rest is register `k + 1` of the burst. -/
theorem reg_succ (reg : RegNum) (k : Nat) : reg + 1 + BitVec.ofNat 10 k = reg + BitVec.ofNat 10 (k + 1) := by
  rw [BitVec.ofNat_add, BitVec.add_assoc, BitVec.add_comm 1]
  rfl

/-- A slot of no register of the burst keeps its value. -/
theorem slot_updateCache_of_not_mem {reg : RegNum} {d : List Word} {s : State} {i : Byte}
    (h : ∀ k, k < d.length → s.cfg.slotOf (reg + BitVec.ofNat 10 k) ≠ some i) : (updateCache reg d s).slot i = s.slot i := by
  induction d generalizing reg s with
  | nil => rfl
  | cons w ws ih =>
    have hhead : s.cfg.slotOf reg ≠ some i := by simpa using h 0 (Nat.succ_pos _)
    have htail : ∀ k, k < ws.length → (cacheWord reg w s).cfg.slotOf (reg + 1 + BitVec.ofNat 10 k) ≠ some i := by
      intro k hk
      rw [cacheWord_cfg, reg_succ]
      exact h (k + 1) (Nat.succ_lt_succ hk)
    rw [updateCache, ih htail, slot_cacheWord_of_ne w hhead]

/-- A slot holds the word of the last register of the burst that has it. -/
theorem slot_updateCache_of_last {reg : RegNum} {d : List Word} {s : State} {i : Byte} {j : Nat} (hi : i.toNat < s.cache.length)
    (hj : j < d.length) (hreg : s.cfg.slotOf (reg + BitVec.ofNat 10 j) = some i)
    (hlast : ∀ k, j < k → k < d.length → s.cfg.slotOf (reg + BitVec.ofNat 10 k) ≠ some i) :
    (updateCache reg d s).slot i = d[j]? := by
  induction d generalizing reg s j with
  | nil => exact absurd hj (Nat.not_lt_zero j)
  | cons w ws ih =>
    cases j with
    | zero =>
      have hhead : s.cfg.slotOf reg = some i := by simpa using hreg
      have htail : ∀ k, k < ws.length → (cacheWord reg w s).cfg.slotOf (reg + 1 + BitVec.ofNat 10 k) ≠ some i := by
        intro k hk
        rw [cacheWord_cfg, reg_succ]
        exact hlast (k + 1) (Nat.succ_pos k) (Nat.succ_lt_succ hk)
      rw [updateCache, slot_updateCache_of_not_mem htail, cacheWord_of_slotOf hhead, slot_setSlot_self w hi]
      rfl
    | succ j =>
      rw [updateCache, List.getElem?_cons_succ]
      refine ih ?_ (Nat.lt_of_succ_lt_succ hj) ?_ fun k hjk hk => ?_
      · rwa [cacheWord_cache_length]
      · rwa [cacheWord_cfg, reg_succ]
      · rw [cacheWord_cfg, reg_succ]
        exact hlast (k + 1) (Nat.succ_lt_succ hjk) (Nat.succ_lt_succ hk)

/-- Settles O25, by induction on the words of the burst. -/
theorem cacheUpdate : Obligations.CacheUpdate := fun reg d s _ hslot =>
  ⟨fun _ => slot_updateCache_of_last hslot, slot_updateCache_of_not_mem, updateCache_eq reg d s,
    updateCache_cache_length reg d s⟩

/-! ### One read attempt (R150) -/

theorem afterRead_withCs (reg : RegNum) (n : BitVec 4) (safe : Bool) (s : State) (k : BitVec 8) :
    afterRead reg n safe (s.withCs k) = (afterRead reg n safe s).withCs k :=
  updateCache_withCs reg (readWords n.toNat s.env) (afterMemRead reg n safe s) k

theorem afterRead_sameCore (reg : RegNum) (n : BitVec 4) (safe : Bool) (s : State) : SameCore s (afterRead reg n safe s) :=
  (⟨rfl, rfl, rfl, rfl, rfl, rfl, rfl, rfl, rfl⟩ : SameCore s (afterMemRead reg n safe s)).trans (updateCache_sameCore _ _ _)

@[simp] theorem afterRead_txb (reg : RegNum) (n : BitVec 4) (safe : Bool) (s : State) :
    (afterRead reg n safe s).txb = (afterMemRead reg n safe s).txb := by
  rw [afterRead, updateCache_eq, State.withCache_txb]

/-- Without the safety check the attempt ends with its read. -/
theorem afterAttempt_unchecked (reg : RegNum) (n : BitVec 4) (s : State) :
    afterAttempt reg n false s = afterRead reg n false s := by
  simp [afterAttempt, readKind]

/-- With it, the read is followed by the validation and its reset. -/
theorem validateAndReset_afterRead (reg : RegNum) (n : BitVec 4) (s : State) :
    validateAndReset (afterRead reg n true s) = (readKind reg n true s, afterAttempt reg n true s) := by
  have hcfg := (afterRead_sameCore reg n true s).cfg
  rw [validateAndReset_eq, hcfg, afterRead_txb, safetyReset_eq]
  simp only [needsSafetyReset_iff]
  rfl

theorem readKind_withCs (reg : RegNum) (n : BitVec 4) (safe : Bool) (s : State) (k : BitVec 8) :
    readKind reg n safe (s.withCs k) = readKind reg n safe s := rfl

theorem afterAttempt_withCs (reg : RegNum) (n : BitVec 4) (safe : Bool) (s : State) (k : BitVec 8) :
    afterAttempt reg n safe (s.withCs k) = (afterAttempt reg n safe s).withCs k := by
  simp only [afterAttempt, readKind_withCs, afterRead_withCs, State.withCs_cfg, ite_withCs]
  rfl

theorem afterAttempt_sameCore (reg : RegNum) (n : BitVec 4) (safe : Bool) (s : State) :
    SameCore s (afterAttempt reg n safe s) := by
  have hread := afterRead_sameCore reg n safe s
  unfold afterAttempt
  dsimp only
  split_ifs
  · rw [← safetyReset_eq]
    exact hread.trans (safetyReset_sameCore _)
  · exact hread

/-- Where the section can be entered, an attempt answers its words and its kind. -/
theorem readRegister_of_room (reg : RegNum) (n : BitVec 4) (safe : Bool) {s : State} (h : s.csCount ≠ 255) :
    readRegister reg n safe s =
      .ok ((readWords n.toNat s.env, readKind reg n safe s), afterAttempt reg n safe s) := by
  refine inSection_of_withCs h ?_ (afterAttempt_sameCore reg n safe s).csCount
  rw [← afterAttempt_withCs, memRead_eq]
  cases safe with
  | false => rw [afterAttempt_unchecked]; rfl
  | true =>
    have hvalid := validateAndReset_afterRead reg n (s.withCs (s.csCount + 1))
    rw [afterRead] at hvalid
    dsimp only
    rw [hvalid]
    rfl

theorem CanEnter.succ_ne_full {n : Nat} {s : State} (h : CanEnter (n + 2) s) : s.csCount + 1 ≠ 255 := by
  unfold CanEnter at h
  bv_omega

theorem readBody_of_room (reg : RegNum) (n : BitVec 4) (safe : Bool) (data : List Word → Long) {s : State}
    (h : s.csCount ≠ 255) : readBody reg n safe data s =
      .ok (⟨readKind reg n safe s, data (readWords n.toNat s.env)⟩, afterAttempt reg n safe s) := by
  rw [readBody, readRegister_of_room reg n safe h]

/-- A command that is one read attempt (R156, R161). -/
theorem command_readBody (reg : RegNum) (n : BitVec 4) (safe : Bool) (data : List Word → Long) {s : State}
    (hroom : CanEnter 2 s) : command (readBody reg n safe data) s =
      .next ((afterAttempt reg n safe s).respond (readKind reg n safe s) (data (readWords n.toNat s.env))) := by
  refine command_of_withCs hroom.ne_full ?_ (afterAttempt_sameCore reg n safe s).csCount
  rw [readBody_of_room reg n safe data hroom.succ_ne_full, afterAttempt_withCs]
  rfl

/-! ### `RDREG` and `RDBURST` (R156, R161) -/

theorem readWords_getD (n : Nat) (e : Env) (i : Nat) :
    (readWords n e).getD i 0 = if i < n then wordAt e (i + 1) else 0 := by
  rw [List.getD_eq_getElem?_getD]
  split_ifs with h <;> simp [readWords, h]

theorem fourWords_readWords {n : Nat} (hn : 0 < n) (e : Env) : fourWords (readWords n e) =
    (if 3 < n then wordAt e 4 else 0) ++ (if 2 < n then wordAt e 3 else 0) ++ (if 1 < n then wordAt e 2 else 0) ++
      wordAt e 1 := by
  simp only [fourWords, readWords_getD]
  rw [if_pos hn]

theorem execRdburst_zero (safe : Bool) (reg : RegNum) (s : State) :
    execRdburst safe reg 0 s = .next (s.respond .illegalOperand 0) := rfl

theorem execRdburst_of_ne_zero {safe : Bool} {reg : RegNum} {n : BitVec 4} {s : State} (hroom : CanEnter 2 s) (hn : n ≠ 0) :
    execRdburst safe reg n s = .next ((afterAttempt reg n safe s).respond (readKind reg n safe s)
      (fourWords (readWords n.toNat s.env))) := by
  rw [execRdburst, if_neg hn]
  exact command_readBody reg n safe fourWords hroom

/-- Settles O26. -/
theorem readCommands : Obligations.ReadCommands := by
  intro safe reg n s hroom
  refine ⟨command_readBody reg 1 safe firstWord hroom, fun hn => ?_, fun hn => ?_⟩
  · rw [← fourWords_readWords (by bv_omega)]
    exact execRdburst_of_ne_zero hroom hn
  · rw [hn]
    exact execRdburst_zero safe reg s

/-! ### `WRREG` and `SRESET` (R162, R164) -/

theorem execWrreg_eq (reg : RegNum) (v : Word) {s : State} (h : s.csCount ≠ 255) :
    execWrreg reg v s = .next ((afterMemWrite reg v s).respond .ok 0) := by
  rw [← memWrite_eq]
  exact command_of_withCs h (by rw [memWrite_withCs]) (memWrite_sameCore reg v s).csCount

theorem execSreset_eq {s : State} (h : s.csCount ≠ 255) :
    execSreset s = .next ((afterSafetyReset s).respond .ok 0) := by
  rw [← safetyReset_eq]
  exact command_of_withCs h (by rw [safetyReset_withCs]) (safetyReset_sameCore s).csCount

/-- Settles O27. -/
theorem writeAndResetCommands : Obligations.WriteAndResetCommands := fun reg v _ hroom =>
  ⟨execWrreg_eq reg v hroom.ne_full, execSreset_eq hroom.ne_full⟩

/-! ### `GETBF` (R157) -/

/-- What a well-formed configuration says of its fields (30_encoding.md R102). -/
theorem Cfg.wf_field {c : Cfg} {f : Descriptor} (h : c.wf = true) (hf : f ∈ c.fieldTable) :
    f.slot.toNat < c.nslots ∧ c.slotOf f.reg = some f.slot := by
  simp only [Cfg.wf, Cfg.wfCache, Bool.and_eq_true, List.all_eq_true] at h
  obtain ⟨⟨⟨-, ⟨⟨⟨⟨⟨⟨-, -⟩, hfields⟩, -⟩, -⟩, -⟩, -⟩⟩, -⟩, -⟩ := h
  have hwf := hfields f hf
  simp only [Descriptor.wf, Bool.and_eq_true, decide_eq_true_eq, beq_iff_eq] at hwf
  obtain ⟨⟨-, hslot⟩, hreg⟩ := hwf
  exact ⟨hslot, hreg⟩

theorem afterAttempt_cache (reg : RegNum) (n : BitVec 4) (safe : Bool) (s : State) :
    (afterAttempt reg n safe s).cache = (afterRead reg n safe s).cache := by
  unfold afterAttempt
  dsimp only
  split_ifs <;> rfl

/-- After an attempt at one register its slot holds the word read, whatever the kind. -/
theorem slot_afterAttempt {reg : RegNum} {safe : Bool} {s : State} {i : Byte} (hi : i.toNat < s.cache.length)
    (hreg : s.cfg.slotOf reg = some i) : (afterAttempt reg 1 safe s).slot i = some (wordAt s.env 1) := by
  rw [State.slot, afterAttempt_cache]
  change (cacheWord reg (wordAt s.env 1) (afterMemRead reg 1 safe s)).slot i = _
  rw [cacheWord_of_slotOf (s := afterMemRead reg 1 safe s) hreg]
  exact slot_setSlot_self _ hi

theorem getField_of_readable {f : Descriptor} {s : State} (h : s.csCount ≠ 255) (hmode : permitsRead f.mode = true)
    (hslot : f.slot.toNat < s.cache.length) (hreg : s.cfg.slotOf f.reg = some f.slot) : getField f s =
      .ok (⟨readKind f.reg 1 true s, (extractField f (wordAt s.env 1)).setWidth 64⟩, afterAttempt f.reg 1 true s) := by
  rw [getField, if_pos hmode, readRegister_of_room f.reg 1 true h]
  simp only [slot_afterAttempt hslot hreg]

theorem getField_of_unreadable {f : Descriptor} {s : State} (hmode : ¬ permitsRead f.mode = true) :
    getField f s = .ok (⟨.fieldNotReadable, 0⟩, s) :=
  if_neg hmode

theorem permitsRead_iff {m : AccessMode} : permitsRead m = true ↔ m = .read ∨ m = .readWrite ∨ m = .readUpdate := by
  cases m <;> decide

theorem not_permitsRead_iff {m : AccessMode} : ¬ permitsRead m = true ↔ m = .write ∨ m = .writeUpdate ∨ m = .reserved := by
  cases m <;> decide

theorem execGetbf_of_field {idx : Byte} {s : State} {f : Descriptor} (hf : s.cfg.fieldTable[idx.toNat]? = some f) :
    execGetbf idx s = command (getField f) s := by
  simp only [execGetbf, hf]

theorem execGetbf_past_table {idx : Byte} {s : State} (h : s.cfg.fieldTable.length ≤ idx.toNat) :
    execGetbf idx s = .next (s.respond .illegalOperand 0) := by
  simp only [execGetbf, List.getElem?_eq_none h]
  rfl

/-- Settles O28: the field's slot is the one its read has just written. -/
theorem getFieldCommand : Obligations.GetFieldCommand := by
  intro idx s hroom hwf hcache
  refine ⟨fun f hf => ⟨fun hmode => ?_, fun hmode => ?_⟩, execGetbf_past_table⟩
  · obtain ⟨hslot, hreg⟩ := Cfg.wf_field hwf (List.mem_of_getElem? hf)
    refine (execGetbf_of_field hf).trans
      (command_of_withCs hroom.ne_full ?_ (afterAttempt_sameCore f.reg 1 true s).csCount)
    rw [getField_of_readable (s := s.withCs _) hroom.succ_ne_full (permitsRead_iff.mpr hmode) (hcache ▸ hslot) hreg,
      afterAttempt_withCs]
    rfl
  · exact (execGetbf_of_field hf).trans
      (command_of_withCs hroom.ne_full (getField_of_unreadable (not_permitsRead_iff.mpr hmode)) rfl)

/-! ### `SETBF` (R159) -/

theorem setField_of_writable {f : Descriptor} {w : Word} (x : Word) {s : State} (hmode : permitsWrite f.mode = true)
    (hslot : s.slot f.slot = some w) : setField f x s = .ok (⟨.ok, (mergeField f w x).setWidth 64⟩,
      afterMemWrite f.reg (mergeField f w x) (s.setSlot f.slot (mergeField f w x))) := by
  rw [setField, if_pos hmode]
  simp only [hslot, memWrite_eq]

theorem setField_of_unread {f : Descriptor} (x : Word) {s : State} (hmode : permitsWrite f.mode = true)
    (hslot : s.slot f.slot = none) : setField f x s = .error .cacheSlotUnread := by
  rw [setField, if_pos hmode]
  simp only [hslot]

theorem setField_of_unwritable {f : Descriptor} (x : Word) {s : State} (hmode : ¬ permitsWrite f.mode = true) :
    setField f x s = .ok (⟨.fieldNotWritable, 0⟩, s) :=
  if_neg hmode

theorem permitsWrite_iff {m : AccessMode} : permitsWrite m = true ↔ m = .write ∨ m = .readWrite ∨ m = .writeUpdate := by
  cases m <;> decide

theorem not_permitsWrite_iff {m : AccessMode} : ¬ permitsWrite m = true ↔ m = .read ∨ m = .readUpdate ∨ m = .reserved := by
  cases m <;> decide

theorem execSetbf_of_field {idx : Byte} (x : Word) {s : State} {f : Descriptor}
    (hf : s.cfg.fieldTable[idx.toNat]? = some f) : execSetbf idx x s = command (setField f x) s := by
  simp only [execSetbf, hf]

theorem execSetbf_past_table {idx : Byte} (x : Word) {s : State} (h : s.cfg.fieldTable.length ≤ idx.toNat) :
    execSetbf idx x s = .next (s.respond .illegalOperand 0) := by
  simp only [execSetbf, List.getElem?_eq_none h]
  rfl

/-- Settles O29. -/
theorem setFieldCommand : Obligations.SetFieldCommand := by
  intro idx x s hroom
  have h : s.csCount ≠ 255 := hroom.ne_full
  refine ⟨fun f hf => ⟨fun hmode => ?_, fun hmode => ?_⟩, execSetbf_past_table x⟩
  · have hwrite := permitsWrite_iff.mpr hmode
    refine ⟨fun w hw => ?_, fun hnone => ?_⟩
    · exact (execSetbf_of_field x hf).trans (command_of_withCs h (setField_of_writable x hwrite hw) rfl)
    · exact (execSetbf_of_field x hf).trans (command_fault h (setField_of_unread x hwrite hnone))
  · exact (execSetbf_of_field x hf).trans
      (command_of_withCs h (setField_of_unwritable x (not_permitsWrite_iff.mpr hmode)) rfl)

end Sys2Proof.Machine
end

section
/-! SUPPORT. What the estimator does with the words it has read: the fields of a register word, a sample into a channel, the absolute
angle and the derivative estimates, each said for the cases of U7 (43_motion_estimator.md R181 to R193). The state at hand may be any one
with the configuration, the offsets and the filters of the state `s` in which the results are written. -/

namespace Sys2Proof.Machine

open Sys2Proof

/-! ### The fields of a register word -/

/-- A field that is masked to its width and extended is the word's number brought into range. -/
theorem sextLow_and_mask {n : Nat} {m : Word} (hm : m.toNat = 2 ^ n - 1) (w : Word) :
    sextLow n (w &&& m) = (w.toNat : Int).bmod (2 ^ n : Nat) := by
  rw [sextLow, BitVec.toInt_setWidth, BitVec.toNat_and, hm, Nat.and_two_pow_sub_one_eq_mod, Int.natCast_mod, Int.emod_bmod]

theorem sextLow_shifted {n : Nat} {m : Word} (hm : m.toNat = 2 ^ n - 1) (w : Word) (k : Nat) :
    sextLow n ((w >>> k) &&& m) = ((w.toNat / 2 ^ k : Nat) : Int).bmod (2 ^ n : Nat) := by
  rw [sextLow_and_mask hm, BitVec.toNat_ushiftRight, Nat.shiftRight_eq_div_pow]

theorem angleOf_eq (w : Word) (s : State) : angleOf w s = angleDegrees s w := by
  have hmask : (w &&& 0x7FFF).toNat = w.toNat % 32768 := by
    rw [BitVec.toNat_and]
    exact Nat.and_two_pow_sub_one_eq_mod w.toNat 15
  simp only [angleOf, rawAngle, hmask, angleDegrees]

theorem rawRev_eq (c : Cfg) (w : Word) : rawRev c w = ((w.toNat / 2 ^ c.revShift : Nat) : Int).bmod 512 :=
  sextLow_shifted rfl w c.revShift

theorem revSample_eq (w : Word) (s : State) : revSample w s = revolutions s w := by
  unfold revSample revolutions
  rw [rawRev_eq]

theorem tempDecode_eq (c : Cfg) (w : Word) : tempDecode c w =
    tdiv ((((w.toNat / 2 ^ c.tempShift : Nat) : Int).bmod 1024 * 65536 + c.tempOffset) * 65536) c.tempDiv := by
  rw [tempDecode, fxdiv, rawTemp, sextLow_shifted rfl]
  rfl

theorem burstWord_readWords {n i : Nat} (hi : i < n) (e : Env) : burstWord (readWords n e) i = wordAt e (i + 1) := by
  rw [burstWord, readWords_getD, if_pos hi]

theorem rawSpeed_readWords {c : Cfg} {n : Nat} (hi : c.speedWordIdx < n) (e : Env) :
    rawSpeed c (readWords n e) = ((wordAt e (c.speedWordIdx + 1)).toNat : Int).bmod 32768 := by
  rw [rawSpeed, burstWord_readWords hi, sextLow_and_mask rfl]
  rfl

theorem setWidth_ushiftRight (w : Word) (k n : Nat) : (w >>> k).setWidth n = w.extractLsb' k n := by
  apply BitVec.eq_of_getLsbD_eq
  intro i hi
  simp [hi]

theorem speedMode_readWords {c : Cfg} {n : Nat} (hi : c.modeWordIdx < n) (e : Env) :
    speedMode c (readWords n e) = (wordAt e (c.modeWordIdx + 1)).extractLsb' c.modeShift 2 := by
  rw [speedMode, burstWord_readWords hi, setWidth_ushiftRight]

/-! ### A sample into a channel (R12, 41_moving_average.md R141, R142) -/

theorem fxCheck_of_fits {c : Cfg} {x : Fx} (h : fxFits c x = true) : fxCheck c x = .ok x := if_pos h

theorem fxCheck_of_not_fits {c : Cfg} {x : Fx} (h : ¬ fxFits c x = true) : fxCheck c x = .error .fxOverflow := if_neg h

/-- The channel `ch` and the width that its sums must fit are those of `s`. -/
structure SameChannel (ch : Chan) (s u : State) : Prop where
  cfg : u.cfg = s.cfg
  filter : u.ma.get ch = s.ma.get ch

theorem SameChannel.fed_other {ch ch' : Chan} {s u : State} (h : SameChannel ch s u) (hne : ch ≠ ch') (x : Fx) :
    SameChannel ch s (fed ch' x u) :=
  ⟨h.cfg, (Bank.get_set_other u.ma _ hne).trans h.filter⟩

theorem SameChannel.sampleFits_iff {ch : Chan} {s u : State} (h : SameChannel ch s u) (x : Fx) :
    SampleFits ch x u ↔ SampleFits ch x s := by
  rw [SampleFits, SampleFits, h.cfg, h.filter]

theorem SameChannel.maAdd_of_fits {ch : Chan} {x : Fx} {s u : State} (h : SameChannel ch s u) (hfits : SampleFits ch x s) :
    maAdd ch x u = .ok (fed ch x u) :=
  Machine.maAdd_of_fits ((h.sampleFits_iff x).mpr hfits)

theorem SameChannel.maAdd_of_not_fits {ch : Chan} {x : Fx} {s u : State} (h : SameChannel ch s u)
    (hfits : ¬ SampleFits ch x s) : maAdd ch x u = .error .fxOverflow :=
  Machine.maAdd_of_not_fits (mt (h.sampleFits_iff x).mp hfits)

theorem SameChannel.maValue_fed {ch : Chan} {s u : State} (h : SameChannel ch s u) (x : Fx) :
    maValue ch (fed ch x u) = meanWith ch x s := by
  rw [maValue, fed, State.withMa_ma, Bank.get_set_same, h.filter]
  rfl

/-! ### The angle samples (R181, R185) -/

/-- What the estimator reads of a state, outside the transport: the configuration, its registers, the filters. -/
structure SameEstimator (s u : State) : Prop where
  cfg : u.cfg = s.cfg
  est : u.est = s.est
  ma : u.ma = s.ma

theorem SameCore.sameEstimator {s u : State} (h : SameCore s u) : SameEstimator s u := ⟨h.cfg, h.est, h.ma⟩

section
variable {s u : State} {rev w : Word}

theorem SameEstimator.channel (h : SameEstimator s u) (ch : Chan) : SameChannel ch s u := ⟨h.cfg, by rw [h.ma]⟩

theorem SameEstimator.angleOf_eq (h : SameEstimator s u) (w : Word) : angleOf w u = angleDegrees s w := by
  simp only [Machine.angleOf_eq, angleDegrees, h.est]

theorem SameEstimator.revSample_eq (h : SameEstimator s u) (w : Word) : revSample w u = revolutions s w := by
  rw [Machine.revSample_eq]
  unfold revolutions
  rw [h.cfg, h.est]

theorem angleSample_of_fits (h : SameEstimator s u) (hfits : SampleFits .angle (angleDegrees s w) s) :
    angleSample w u = .ok (angleDegrees s w, fed .angle (angleDegrees s w) u) := by
  rw [angleSample, h.angleOf_eq, (h.channel .angle).maAdd_of_fits hfits]

theorem angleSample_of_not_fits (h : SameEstimator s u) (hfits : ¬ SampleFits .angle (angleDegrees s w) s) :
    angleSample w u = .error .fxOverflow := by
  rw [angleSample, h.angleOf_eq, (h.channel .angle).maAdd_of_not_fits hfits]

theorem absAngleSample_of_fits (h : SameEstimator s u) (hfits : AbsoluteWordsFit s rev w) :
    absAngleSample rev w u = .ok (meanWith .absAngle (absoluteOf s rev w) s, fedAbsolute s rev w u) := by
  obtain ⟨hangle, hturns, habs⟩ := hfits
  change SampleFits .absAngle (revolutions s rev * 23592960 + angleDegrees s w) s at habs
  have hch := (h.channel .absAngle).fed_other (ch' := .angle) (by decide) (angleDegrees s w)
  simp only [absAngleSample, angleSample_of_fits h hangle, h.revSample_eq, h.cfg, fxTurn, fxCheck_of_fits hturns]
  rw [hch.maAdd_of_fits habs]
  exact congrArg (fun a => Except.ok (a, _)) (hch.maValue_fed _)

/-- The checks of U7 come in the order angle, `r x 360`, absolute angle; each one that fails stops the sample. -/
theorem absAngleSample_of_not_fits (h : SameEstimator s u) (hfits : ¬ AbsoluteWordsFit s rev w) :
    absAngleSample rev w u = .error .fxOverflow := by
  by_cases hangle : SampleFits .angle (angleDegrees s w) s
  · have hch := (h.channel .absAngle).fed_other (ch' := .angle) (by decide) (angleDegrees s w)
    simp only [absAngleSample, angleSample_of_fits h hangle, h.revSample_eq, h.cfg, fxTurn]
    by_cases hturns : fxFits s.cfg (revolutions s rev * 23592960) = true
    · have habs : ¬ SampleFits .absAngle (revolutions s rev * 23592960 + angleDegrees s w) s := fun habs =>
        hfits ⟨hangle, hturns, habs⟩
      simp only [fxCheck_of_fits hturns, hch.maAdd_of_not_fits habs]
    · rw [fxCheck_of_not_fits hturns]
  · rw [absAngleSample, angleSample_of_not_fits h hangle]

/-! ### The commands of one read (R182, R184, R188, R192) -/

theorem finishAngle_of_fits (h : SameEstimator s u) (useAverage : Bool) (hfits : SampleFits .angle (angleDegrees s w) s) :
    finishAngle useAverage w u =
      .ok (⟨.ok, dataOfInt (if useAverage then meanWith .angle (angleDegrees s w) s else angleDegrees s w)⟩,
        fed .angle (angleDegrees s w) u) := by
  rw [finishAngle, angleSample_of_fits h hfits]
  simp only [(h.channel .angle).maValue_fed]

theorem finishAngle_of_not_fits (h : SameEstimator s u) (useAverage : Bool)
    (hfits : ¬ SampleFits .angle (angleDegrees s w) s) : finishAngle useAverage w u = .error .fxOverflow := by
  rw [finishAngle, angleSample_of_not_fits h hfits]

theorem finishArev_eq (h : SameEstimator s u) (w : Word) :
    finishArev w u = .ok (⟨.ok, dataOfInt (revolutions s w)⟩, u) := by
  rw [finishArev, h.revSample_eq]

theorem finishSpeedReg_of_fits {d : List Word} {x : Fx} (h : SameEstimator s u)
    (hx : rawSpeed s.cfg d * speedScaleOf s.cfg (speedMode s.cfg d) = x) (hfits : SampleFits .speed x s) :
    finishSpeedReg d u = .ok (⟨.ok, dataOfInt (meanWith .speed x s)⟩, fed .speed x u) := by
  rw [finishSpeedReg, h.cfg, hx, (h.channel .speed).maAdd_of_fits hfits]
  simp only [(h.channel .speed).maValue_fed]

theorem finishSpeedReg_of_not_fits {d : List Word} {x : Fx} (h : SameEstimator s u)
    (hx : rawSpeed s.cfg d * speedScaleOf s.cfg (speedMode s.cfg d) = x) (hfits : ¬ SampleFits .speed x s) :
    finishSpeedReg d u = .error .fxOverflow := by
  rw [finishSpeedReg, h.cfg, hx, (h.channel .speed).maAdd_of_not_fits hfits]

theorem finishTemp_of_fits (h : SameEstimator s u) (now : U32) (hfits : SampleFits .temp (tempDecode s.cfg w) s) :
    finishTemp now w u = .ok (⟨.ok, dataOfInt (meanWith .temp (tempDecode s.cfg w) s)⟩,
      otEval (meanWith .temp (tempDecode s.cfg w) s) now (fed .temp (tempDecode s.cfg w) u)) := by
  rw [finishTemp, h.cfg, (h.channel .temp).maAdd_of_fits hfits]
  simp only [(h.channel .temp).maValue_fed]

theorem finishTemp_of_not_fits (h : SameEstimator s u) (now : U32) (hfits : ¬ SampleFits .temp (tempDecode s.cfg w) s) :
    finishTemp now w u = .error .fxOverflow := by
  rw [finishTemp, h.cfg, (h.channel .temp).maAdd_of_not_fits hfits]

/-! ### The commands of two reads (R186, R187, R189, R193) -/

theorem finishAangle_of_fits (h : SameEstimator s u) (hfits : AbsoluteWordsFit s rev w) : finishAangle rev w u =
    .ok (⟨.ok, dataOfInt (meanWith .absAngle (absoluteOf s rev w) s)⟩, fedAbsolute s rev w u) := by
  rw [finishAangle, absAngleSample_of_fits h hfits]

theorem finishAangle_of_not_fits (h : SameEstimator s u) (hfits : ¬ AbsoluteWordsFit s rev w) :
    finishAangle rev w u = .error .fxOverflow := by
  rw [finishAangle, absAngleSample_of_not_fits h hfits]

/-- The results of `ZERO` that U7 checks fit: the sample, its sum and the new offset. -/
def ZeroFits (s : State) (w : Word) : Prop :=
  SampleFits .angle (angleDegrees s w) s ∧ fxFits s.cfg (s.est.startupAngleOfs + angleDegrees s w) = true

theorem finishZero_of_fits (h : SameEstimator s u) (hfits : ZeroFits s w) : finishZero rev w u =
    .ok (⟨.ok, 0⟩, (fed .angle (angleDegrees s w) u).withEst { s.est with
      startupRevOfs := BitVec.ofInt 32 (s.est.startupRevOfs.toInt + revolutions s rev)
      startupAngleOfs := s.est.startupAngleOfs + angleDegrees s w }) := by
  obtain ⟨hsample, hofs⟩ := hfits
  rw [finishZero, angleSample_of_fits h hsample]
  simp only [h.cfg, h.est, h.revSample_eq, fxCheck_of_fits hofs, fed, State.withMa_est, wrap32]

theorem finishZero_of_not_fits (h : SameEstimator s u) (hfits : ¬ ZeroFits s w) :
    finishZero rev w u = .error .fxOverflow := by
  by_cases hsample : SampleFits .angle (angleDegrees s w) s
  · have hofs : ¬ fxFits s.cfg (s.est.startupAngleOfs + angleDegrees s w) = true := fun hofs => hfits ⟨hsample, hofs⟩
    rw [finishZero, angleSample_of_fits h hsample]
    simp only [h.cfg, h.est, fxCheck_of_not_fits hofs]
  · rw [finishZero, angleSample_of_not_fits h hsample]

theorem derivative_of_fits {ch : Chan} {num den : Int} (hch : SameChannel ch s u) (hest : u.est = s.est) (a : Fx) (now : U32)
    (hfits : DerivativeFits ch num den s) : derivative ch a num den now u =
      .ok (⟨.ok, dataOfInt (meanWith ch (tdiv num den) s)⟩,
        (fed ch (tdiv num den) u).withEst { s.est with lastAngle := a, lastTime := now }) := by
  obtain ⟨hnum, hsample⟩ := hfits
  rw [derivative, hch.cfg, fxCheck_of_fits hnum]
  simp only [hch.maAdd_of_fits hsample, hch.maValue_fed]
  rw [fed, State.withMa_est, hest]

theorem derivative_of_not_fits {ch : Chan} {num den : Int} (hch : SameChannel ch s u) (a : Fx) (now : U32)
    (hfits : ¬ DerivativeFits ch num den s) : derivative ch a num den now u = .error .fxOverflow := by
  rw [derivative, hch.cfg]
  by_cases hnum : fxFits s.cfg num = true
  · have hsample : ¬ SampleFits ch (tdiv num den) s := fun hsample => hfits ⟨hnum, hsample⟩
    rw [fxCheck_of_fits hnum]
    simp only [hch.maAdd_of_not_fits hsample]
  · rw [fxCheck_of_not_fits hnum]

/-- The time from the last sample to `now`, in microseconds (R187). -/
def elapsed (s : State) (now : U32) : Nat := (now - s.est.lastTime).toNat

/-- The two derivative estimates as one: the channel, numerator and denominator of `op` for the absolute angle that two words make
at `now` (R187, R189). -/
def IsDerivative (s : State) (now : U32) (rev w : Word) (op : EstOp) (ch : Chan) (num den : Int) : Prop :=
  (op = .speedDiff ∧ ch = .speed ∧
      num = (meanWith .absAngle (absoluteOf s rev w) s - s.est.lastAngle) * 1000000 ∧ den = elapsed s now) ∨
    (op = .accel ∧ ch = .accel ∧
      num = (meanWith .absAngle (absoluteOf s rev w) s - s.est.lastAngle) * 1000000000000 ∧
      den = (elapsed s now : Int) * elapsed s now)

theorem IsDerivative.channel_ne {s : State} {now : U32} {rev w : Word} {op : EstOp} {ch : Chan} {num den : Int}
    (h : IsDerivative s now rev w op ch num den) : ch ≠ .angle ∧ ch ≠ .absAngle := by
  obtain ⟨-, rfl, -⟩ | ⟨-, rfl, -⟩ := h <;> decide

section
variable {op : EstOp} {ch : Chan} {num den : Int} {now : U32}

theorem IsDerivative.sameChannel (hd : IsDerivative s now rev w op ch num den) (h : SameEstimator s u) :
    SameChannel ch s (fedAbsolute s rev w u) :=
  ((h.channel ch).fed_other hd.channel_ne.1 _).fed_other hd.channel_ne.2 _

/-- With time passed and the absolute angle in range, both go on with their derivative of it. -/
theorem finishOp_of_elapsed (h : SameEstimator s u) (hd : IsDerivative s now rev w op ch num den) (hdt : elapsed s now ≠ 0)
    (hfits : AbsoluteWordsFit s rev w) : finishOp op now rev [w] u =
      derivative ch (meanWith .absAngle (absoluteOf s rev w) s) num den now (fedAbsolute s rev w u) := by
  have habs := absAngleSample_of_fits h hfits
  unfold IsDerivative at hd
  unfold elapsed at hd hdt
  rw [← h.est] at hd hdt
  obtain ⟨rfl, rfl, rfl, rfl⟩ | ⟨rfl, rfl, rfl, rfl⟩ := hd
  · exact (if_neg hdt).trans (by simp only [List.getD_cons_zero, habs]; rfl)
  · exact (if_neg hdt).trans (by simp only [List.getD_cons_zero, habs]; rfl)

theorem finishOp_derivative_of_fits (h : SameEstimator s u) (hd : IsDerivative s now rev w op ch num den)
    (hdt : elapsed s now ≠ 0) (hfits : AbsoluteWordsFit s rev w) (hder : DerivativeFits ch num den s) :
    finishOp op now rev [w] u = .ok (⟨.ok, dataOfInt (meanWith ch (tdiv num den) s)⟩,
      (fed ch (tdiv num den) (fedAbsolute s rev w u)).withEst
        { s.est with lastAngle := meanWith .absAngle (absoluteOf s rev w) s, lastTime := now }) := by
  rw [finishOp_of_elapsed h hd hdt hfits, derivative_of_fits (hd.sameChannel h) h.est _ now hder]

theorem finishOp_derivative_of_not_fits (h : SameEstimator s u) (hd : IsDerivative s now rev w op ch num den)
    (hdt : elapsed s now ≠ 0) (hfits : ¬ (AbsoluteWordsFit s rev w ∧ DerivativeFits ch num den s)) :
    finishOp op now rev [w] u = .error .fxOverflow := by
  by_cases habs : AbsoluteWordsFit s rev w
  · rw [finishOp_of_elapsed h hd hdt habs]
    exact derivative_of_not_fits (hd.sameChannel h) _ now fun hder => hfits ⟨habs, hder⟩
  · have hstop := absAngleSample_of_not_fits h habs
    unfold elapsed at hdt
    rw [← h.est] at hdt
    obtain ⟨rfl, -⟩ | ⟨rfl, -⟩ := hd
    · exact (if_neg hdt).trans (by simp only [List.getD_cons_zero, hstop])
    · exact (if_neg hdt).trans (by simp only [List.getD_cons_zero, hstop])

theorem finishOp_derivative_of_no_time (h : SameEstimator s u) (hd : IsDerivative s now rev w op ch num den)
    (hdt : elapsed s now = 0) : finishOp op now rev [w] u = .error .zeroInterval := by
  unfold elapsed at hdt
  rw [← h.est] at hdt
  obtain ⟨rfl, -⟩ | ⟨rfl, -⟩ := hd <;> exact if_pos hdt

end

end

end Sys2Proof.Machine
end

section
/-! SUPPORT. The blocking read of the estimator's commands: the sections entered and left, an attempt that is `Ok` and one that fails,
the end of a command (43_motion_estimator.md R180, 40_critical_section.md R134). -/

namespace Sys2Proof.Machine

open Sys2Proof

/-! ### The sections of a command (R134) -/

/-- The sections that `op` holds around its reads are entered. -/
def entered (op : EstOp) (s : State) : State := s.withCs (s.csCount + BitVec.ofNat 8 op.depth)

/-- The command `op` is over: in flight no more, its sections left. -/
def released (op : EstOp) (s : State) : State := (s.withBusy none).withCs (s.csCount - BitVec.ofNat 8 op.depth)

theorem released_entered (op : EstOp) (s : State) : released op (entered op s) = s.withBusy none := by
  simp only [released, entered, withCs_withBusy, State.withCs_csCount, State.withCs_withCs, BitVec.add_sub_cancel]
  rfl

theorem CanEnter.of_add {m n : Nat} {s : State} (h : CanEnter (m + n) s) : CanEnter m s := by
  unfold CanEnter at h ⊢
  omega

theorem entered_csCount_toNat {op : EstOp} {s : State} (h : CanEnter op.depth s) :
    (entered op s).csCount.toNat = s.csCount.toNat + op.depth := by
  unfold CanEnter at h
  rw [entered, State.withCs_csCount, BitVec.toNat_add, BitVec.toNat_ofNat]
  omega

theorem entered_ne_full {op : EstOp} {s : State} (h : CanEnter (op.depth + 1) s) : (entered op s).csCount ≠ 255 := by
  have hn := entered_csCount_toNat h.of_add
  unfold CanEnter at h
  intro hfull
  rw [hfull] at hn
  change 255 = _ at hn
  omega

/-- The sections of a command hold its depth. -/
theorem depth_le_entered {op : EstOp} {s : State} (h : CanEnter op.depth s) : op.depth ≤ (entered op s).csCount.toNat := by
  rw [entered_csCount_toNat h]
  omega

/-! ### The end of a command -/

theorem endCommand_of_held {op : EstOp} (r : Reply) {s : State} (h : op.depth ≤ s.csCount.toNat) :
    endCommand op r s = .next ((released op s).respond r.status r.data) := by
  have hexit : csExitMany op.depth (s.withBusy none) = .ok (released op s) := csExitMany_ok_iff.mpr ⟨h, rfl⟩
  simp only [endCommand, hexit, answer]

/-- The outcome of a command once its words are put to use: it stops there or it ends. -/
def conclude (op : EstOp) : Except Fault (Reply × State) → Host.Outcome State Fault Refusal
  | .error f => .fault f
  | .ok (r, s) => endCommand op r s

theorem conclude_of_held {op : EstOp} (r : Reply) {s : State} (h : op.depth ≤ s.csCount.toNat) :
    conclude op (.ok (r, s)) = .next ((released op s).respond r.status r.data) :=
  endCommand_of_held r h

/-- A command that ends in the step it started in: nothing of its sections is left. -/
theorem conclude_entered {op : EstOp} {s t : State} (r : Reply) (hroom : CanEnter (op.depth + 1) s) (hst : SameDepth s t)
    (hidle : s.busy = none) : conclude op (.ok (r, entered op t)) = .next (t.respond r.status r.data) := by
  have ht : CanEnter op.depth t := by
    rw [CanEnter, hst.csCount]
    exact hroom.of_add
  have hbusy : t.withBusy none = t := by rw [← hidle, ← hst.busy, State.withBusy_same]
  rw [conclude_of_held r (depth_le_entered ht), released_entered, hbusy]

theorem next_of_concluded {o : Host.Outcome State Fault Refusal} {op : EstOp} {e : Except Fault (Reply × State)} {r : Reply}
    {s t : State} (hrun : o = conclude op e) (hend : e = .ok (r, entered op t)) (hroom : CanEnter (op.depth + 1) s)
    (hst : SameDepth s t) (hidle : s.busy = none) : o = .next (t.respond r.status r.data) := by
  rw [hrun, hend, conclude_entered r hroom hst hidle]

theorem fault_of_concluded {o : Host.Outcome State Fault Refusal} {op : EstOp} {e : Except Fault (Reply × State)} {f : Fault}
    (hrun : o = conclude op e) (hend : e = .error f) : o = .fault f := by
  rw [hrun, hend, conclude]

/-! ### A failed attempt (R180, 70_reset_and_hazards.md R301) -/

/-- A failed attempt of `p` may be followed by another one. -/
def RetryLeft (c : Cfg) (p : InFlight) : Prop := c.maxRetries = none ∨ ∃ k, c.maxRetries = some k ∧ p.fails < k

theorem afterFailure_of_left {p : InFlight} {s : State} (h : RetryLeft s.cfg p) :
    afterFailure p s = .next (s.withBusy (some { p with fails := p.fails + 1 })) := by
  obtain hk | ⟨k, hk, hlt⟩ := h
  · simp only [afterFailure, hk]
  · have hmore : ¬ k < p.fails + 1 := by omega
    simp only [afterFailure, hk, if_neg hmore]

theorem afterFailure_of_spent {p : InFlight} {s : State} {k : Nat} (hk : s.cfg.maxRetries = some k) (hspent : k ≤ p.fails)
    (hheld : p.op.depth ≤ s.csCount.toNat) :
    afterFailure p s = .next ((released p.op s).respond .retryExhausted 0) := by
  have hlt : k < p.fails + 1 := by omega
  simp only [afterFailure, hk, if_pos hlt]
  exact endCommand_of_held _ hheld

/-! ### An attempt -/

theorem afterAttempt_of_readOk {reg : RegNum} {n : BitVec 4} {s : State} (h : ReadOk reg n s) :
    afterAttempt reg n true s = afterRead reg n true s := by
  unfold ReadOk at h
  simp [afterAttempt, h]

theorem readRegister_of_readOk {reg : RegNum} {n : BitVec 4} {s : State} (hroom : s.csCount ≠ 255) (h : ReadOk reg n s) :
    readRegister reg n true s = .ok ((readWords n.toNat s.env, .ok), afterRead reg n true s) := by
  rw [readRegister_of_room reg n true hroom, afterAttempt_of_readOk h, h]

section
variable {p : InFlight} {s : State} {reg : RegNum} {n : BitVec 4}

theorem attemptLast_of_readOk (rev : Word) (htarget : p.op.lastTarget s.cfg = (reg, n)) (hroom : s.csCount ≠ 255)
    (h : ReadOk reg n s) : attemptLast p rev s =
      conclude p.op (finishOp p.op p.now rev (readWords n.toNat s.env) (afterRead reg n true s)) := by
  simp only [attemptLast, htarget, readRegister_of_readOk hroom h, if_true]
  split
  next hf => rw [hf, conclude]
  next hf => rw [hf, conclude]

theorem attemptLast_of_readFailed (rev : Word) (htarget : p.op.lastTarget s.cfg = (reg, n)) (hroom : s.csCount ≠ 255)
    (h : ¬ ReadOk reg n s) : attemptLast p rev s = afterFailure p (afterAttempt reg n true s) := by
  unfold ReadOk at h
  simp only [attemptLast, htarget, readRegister_of_room _ _ _ hroom, if_neg h]

/-- A command of one read stands at its last read. -/
theorem attempt_of_single (h : p.op.readsBoth = false) : attempt p s = attemptLast p 0 s := by
  simp only [attempt, h]

/-- So does a command of two reads whose revolution word is read. -/
theorem attempt_of_rev {rev : Word} (h : p.op.readsBoth = true) (hrev : p.rev = some rev) :
    attempt p s = attemptLast p rev s := by
  simp only [attempt, h, hrev]

/-- The revolution read ends well: the angle read begins in the same step with no failed attempts. -/
theorem attempt_of_rev_readOk (hboth : p.op.readsBoth = true) (hrev : p.rev = none) (hroom : s.csCount ≠ 255)
    (h : ReadOk s.cfg.regRev 1 s) : attempt p s =
      attemptLast { p with rev := some (wordAt s.env 1), fails := 0 } (wordAt s.env 1) (afterRead s.cfg.regRev 1 true s) := by
  simp only [attempt, hboth, hrev, readRegister_of_readOk hroom h, if_true]
  rfl

/-- Whatever read the command stands at: an attempt that is not `Ok` goes to the retry rule. -/
theorem attempt_of_readFailed (hroom : s.csCount ≠ 255) (h : ¬ ReadOk (currentTarget s.cfg p).1 (currentTarget s.cfg p).2 s) :
    attempt p s = afterFailure p (afterAttempt (currentTarget s.cfg p).1 (currentTarget s.cfg p).2 true s) := by
  cases hboth : p.op.readsBoth with
  | false =>
    have ht : currentTarget s.cfg p = p.op.lastTarget s.cfg := if_neg (by simp [hboth])
    rw [ht] at h ⊢
    exact (attempt_of_single hboth).trans (attemptLast_of_readFailed 0 rfl hroom h)
  | true =>
    cases hrev : p.rev with
    | none =>
      have ht : currentTarget s.cfg p = (s.cfg.regRev, 1) := if_pos ⟨hboth, hrev⟩
      rw [ht] at h ⊢
      unfold ReadOk at h
      simp only [attempt, hboth, hrev, readRegister_of_room _ _ _ hroom, if_neg h]
    | some rev =>
      have ht : currentTarget s.cfg p = p.op.lastTarget s.cfg := if_neg (by simp [hrev])
      rw [ht] at h ⊢
      exact (attempt_of_rev hboth hrev).trans (attemptLast_of_readFailed rev rfl hroom h)

end

/-! ### The start of a command -/

theorem startCommand_of_room {op : EstOp} {s : State} (h : CanEnter op.depth s) :
    startCommand op s = attempt ⟨op, s.env.now, none, 0⟩ (entered op s) := by
  rw [startCommand, csEnterMany_ok_iff.mpr ⟨h, rfl⟩]
  rfl

/-- Each instruction of the estimator that reads the sensor starts its command (R181 to R193). -/
theorem exec_of_estOpOf {i : Instr} {op : EstOp} {s : State} (h : estOpOf s.cfg i = some op) (hdiv : s.cfg.tempDiv ≠ 0) :
    exec i s = startCommand op s := by
  cases i <;> cases h
  case speed => simp only [exec, execSpeed]; cases s.cfg.speedStrategy <;> rfl
  case temp => exact if_neg hdiv
  all_goals rfl

theorem afterRead_entered (op : EstOp) (reg : RegNum) (n : BitVec 4) (safe : Bool) (s : State) :
    afterRead reg n safe (entered op s) = entered op (afterRead reg n safe s) := by
  rw [entered, afterRead_withCs, entered, (afterRead_sameCore reg n safe s).csCount]

theorem afterAttempt_entered (op : EstOp) (reg : RegNum) (n : BitVec 4) (safe : Bool) (s : State) :
    afterAttempt reg n safe (entered op s) = entered op (afterAttempt reg n safe s) := by
  rw [entered, afterAttempt_withCs, entered, (afterAttempt_sameCore reg n safe s).csCount]

/-- A command of one read that is `Ok` puts its words to use. -/
theorem startCommand_of_readOk {op : EstOp} {s : State} {reg : RegNum} {n : BitVec 4} (hroom : CanEnter (op.depth + 1) s)
    (hsingle : op.readsBoth = false) (htarget : op.lastTarget s.cfg = (reg, n)) (h : ReadOk reg n s) :
    startCommand op s =
      conclude op (finishOp op s.env.now 0 (readWords n.toNat s.env) (entered op (afterRead reg n true s))) := by
  rw [startCommand_of_room hroom.of_add, attempt_of_single hsingle, ← afterRead_entered]
  exact attemptLast_of_readOk 0 htarget (entered_ne_full hroom) h

theorem EstOp.lastTarget_of_readsBoth {op : EstOp} (h : op.readsBoth = true) (c : Cfg) : op.lastTarget c = (c.regAngle, 1) := by
  cases op
  case angle | arev | speedReg | temp => cases h
  all_goals rfl

theorem afterRead_env (reg : RegNum) (n : BitVec 4) (safe : Bool) (s : State) :
    (afterRead reg n safe s).env = answered (n.toNat + 2) s.env := by
  rw [afterRead, updateCache_eq]
  rfl

theorem readWords_one (e : Env) : readWords (1 : BitVec 4).toNat e = [wordAt e 1] := rfl

/-- The word of a second read is exchange 4 (R67: three exchanges for each read). -/
theorem readWords_second (reg : RegNum) (safe : Bool) (s : State) :
    readWords (1 : BitVec 4).toNat (afterRead reg 1 safe s).env = [wordAt s.env 4] := by
  rw [readWords_one, afterRead_env, wordAt_answered]
  rfl

theorem SameCore.canEnter {n : Nat} {s t : State} (h : SameCore s t) (hroom : CanEnter n s) : CanEnter n t := by
  rwa [CanEnter, h.csCount]

/-- A command of two reads whose revolution read is `Ok` goes on with its angle read. -/
theorem startCommand_of_rev_readOk {op : EstOp} {s : State} (hroom : CanEnter (op.depth + 1) s) (hboth : op.readsBoth = true)
    (h : ReadOk s.cfg.regRev 1 s) : startCommand op s = attemptLast ⟨op, s.env.now, some (wordAt s.env 1), 0⟩
      (wordAt s.env 1) (entered op (afterRead s.cfg.regRev 1 true s)) := by
  rw [startCommand_of_room hroom.of_add, ← afterRead_entered]
  exact attempt_of_rev_readOk hboth rfl (entered_ne_full hroom) h

/-- The angle read is the second one of a command of two reads. -/
theorem lastTarget_afterRead {op : EstOp} (hboth : op.readsBoth = true) (reg : RegNum) (n : BitVec 4) (s : State) :
    op.lastTarget (entered op (afterRead reg n true s)).cfg = (s.cfg.regAngle, 1) := by
  rw [EstOp.lastTarget_of_readsBoth hboth, entered, State.withCs_cfg, (afterRead_sameCore reg n true s).cfg]

/-- A command of two reads that are both `Ok` puts both words to use. -/
theorem startCommand_of_bothReadsOk {op : EstOp} {s : State} (hroom : CanEnter (op.depth + 1) s)
    (hboth : op.readsBoth = true) (h : BothReadsOk s) : startCommand op s =
      conclude op (finishOp op s.env.now (wordAt s.env 1) [wordAt s.env 4] (entered op (afterBothReads s))) := by
  obtain ⟨hrev, hangle⟩ := h
  have hroom' := (afterRead_sameCore s.cfg.regRev 1 true s).canEnter hroom
  have hlast := attemptLast_of_readOk (p := ⟨op, s.env.now, some (wordAt s.env 1), 0⟩) (wordAt s.env 1)
    (lastTarget_afterRead hboth s.cfg.regRev 1 s) (entered_ne_full hroom') hangle
  have hwords : readWords (1 : BitVec 4).toNat (entered op (afterRead s.cfg.regRev 1 true s)).env = [wordAt s.env 4] :=
    readWords_second s.cfg.regRev true s
  rw [startCommand_of_rev_readOk hroom hboth hrev, hlast, hwords, afterRead_entered, afterBothReads]

end Sys2Proof.Machine
end

section
/-! SUPPORT. The estimator's commands with their reads `Ok`: the samples, registers, response and stops of each
(43_motion_estimator.md R181 to R194). Each proof runs the command to its words, then uses what its end does where the results fit and
where they do not. -/

namespace Sys2Proof.Machine

open Sys2Proof

theorem SameCore.entered {s t : State} (h : SameCore s t) (op : EstOp) : SameEstimator s (entered op t) :=
  ⟨h.cfg, h.est, h.ma⟩

theorem afterBothReads_sameCore (s : State) : SameCore s (afterBothReads s) :=
  (afterRead_sameCore s.cfg.regRev 1 true s).trans (afterRead_sameCore s.cfg.regAngle 1 true _)

theorem SameDepth.feed {s t : State} (h : SameDepth s t) (ch : Chan) (x : Fx) : SameDepth s (fed ch x t) := ⟨h.csCount, h.busy⟩

theorem SameDepth.feedAbsolute {s t : State} (h : SameDepth s t) (u : State) (rev w : Word) :
    SameDepth s (fedAbsolute u rev w t) :=
  (h.feed _ _).feed _ _

theorem SameDepth.setEst {s t : State} (h : SameDepth s t) (x : EstRegs) : SameDepth s (t.withEst x) := ⟨h.csCount, h.busy⟩

theorem fed_entered (ch : Chan) (x : Fx) (op : EstOp) (s : State) : fed ch x (entered op s) = entered op (fed ch x s) := rfl

theorem fedAbsolute_entered (s : State) (rev w : Word) (op : EstOp) (t : State) :
    fedAbsolute s rev w (entered op t) = entered op (fedAbsolute s rev w t) := rfl

theorem withEst_entered (x : EstRegs) (op : EstOp) (s : State) : (entered op s).withEst x = entered op (s.withEst x) := rfl

theorem otEval_entered (x : Fx) (now : U32) (op : EstOp) (s : State) :
    otEval x now (entered op s) = entered op (otEval x now s) := by
  rw [entered, otEval_withCs, entered, (otEval_outside x now s).csCount]

/-! ### The commands of one read -/

/-- Settles O36. -/
theorem angleCommand : Obligations.AngleCommand := by
  intro useAverage s hroom hidle hread
  have hcore := afterRead_sameCore s.cfg.regAngle 1 true s
  have hrun := startCommand_of_readOk (op := .angle useAverage) hroom rfl rfl hread
  rw [readWords_one] at hrun
  refine ⟨fun hfits => ?_, fun hfits => ?_⟩
  · have hend := finishAngle_of_fits (hcore.entered (.angle useAverage)) useAverage hfits
    rw [fed_entered] at hend
    exact next_of_concluded hrun hend hroom (hcore.sameDepth.feed _ _) hidle
  · have hend := finishAngle_of_not_fits (hcore.entered (.angle useAverage)) useAverage hfits
    exact fault_of_concluded hrun hend

/-- Settles O37. -/
theorem revolutionCommand : Obligations.RevolutionCommand := by
  intro s hroom hidle hread
  have hcore := afterRead_sameCore s.cfg.regRev 1 true s
  have hrun := startCommand_of_readOk (op := .arev) hroom rfl rfl hread
  rw [readWords_one] at hrun
  have hend := finishArev_eq (hcore.entered .arev) (wordAt s.env 1)
  exact next_of_concluded hrun hend hroom hcore.sameDepth hidle

/-- Settles O40. -/
theorem speedByRegister : Obligations.SpeedByRegister := by
  intro s hroom hidle hstrategy hspeed hmode hread
  have hcore := afterRead_sameCore s.cfg.regSpeed 4 true s
  have hexec : exec .speed s = startCommand .speedReg s := by simp only [exec, execSpeed, hstrategy]
  have hrun := hexec.trans (startCommand_of_readOk (op := .speedReg) hroom rfl rfl hread)
  have hvalue := congrArg₂ (· * ·)
    (rawSpeed_readWords (n := 4) (Nat.lt_succ_of_le hspeed) s.env)
    (congrArg (speedScaleOf s.cfg) (speedMode_readWords (n := 4) (Nat.lt_succ_of_le hmode) s.env))
  refine ⟨fun hfits => ?_, fun hfits => ?_⟩
  · have hend := finishSpeedReg_of_fits (hcore.entered .speedReg) hvalue hfits
    rw [fed_entered] at hend
    exact next_of_concluded hrun hend hroom (hcore.sameDepth.feed _ _) hidle
  · have hend := finishSpeedReg_of_not_fits (hcore.entered .speedReg) hvalue hfits
    exact fault_of_concluded hrun hend

/-- Settles O42. -/
theorem temperatureCommand : Obligations.TemperatureCommand := by
  intro s hroom hidle hdiv hread
  have hcore := afterRead_sameCore s.cfg.regTemp 1 true s
  have hexec : exec .temp s = startCommand .temp s := if_neg hdiv
  have hrun := hexec.trans (startCommand_of_readOk (op := .temp) hroom rfl rfl hread)
  rw [readWords_one] at hrun
  dsimp only
  rw [← tempDecode_eq]
  refine ⟨fun hfits => ?_, fun hfits => ?_⟩
  · have hend := finishTemp_of_fits (hcore.entered .temp) s.env.now hfits
    have hot := otEval_outside (meanWith .temp (tempDecode s.cfg (wordAt s.env 1)) s) s.env.now
      (fed .temp (tempDecode s.cfg (wordAt s.env 1)) (afterRead s.cfg.regTemp 1 true s))
    rw [fed_entered, otEval_entered] at hend
    exact next_of_concluded hrun hend hroom ⟨hot.csCount.trans hcore.csCount, hot.busy.trans hcore.busy⟩ hidle
  · have hend := finishTemp_of_not_fits (hcore.entered .temp) s.env.now hfits
    exact fault_of_concluded hrun hend

/-! ### The commands of two reads -/

/-- Settles O38. -/
theorem absoluteAngleCommand : Obligations.AbsoluteAngleCommand := by
  intro s hroom hidle hreads
  have hcore := afterBothReads_sameCore s
  have hrun := startCommand_of_bothReadsOk (op := .aangle) hroom rfl hreads
  refine ⟨fun hfits => ?_, fun hfits => ?_⟩
  · have hend := finishAangle_of_fits (hcore.entered .aangle) hfits
    rw [fedAbsolute_entered] at hend
    exact next_of_concluded hrun hend hroom (hcore.sameDepth.feedAbsolute s _ _) hidle
  · have hend := finishAangle_of_not_fits (hcore.entered .aangle) hfits
    exact fault_of_concluded hrun hend

/-- The two derivative commands: the estimate of the words that both reads bring, and its stops (R187, R189). -/
theorem derivativeCommand {op : EstOp} {ch : Chan} {num den : Int} {s : State} (hroom : CanEnter (op.depth + 1) s)
    (hidle : s.busy = none) (hboth : op.readsBoth = true) (hreads : BothReadsOk s)
    (hd : IsDerivative s s.env.now (wordAt s.env 1) (wordAt s.env 4) op ch num den) :
    (elapsed s s.env.now ≠ 0 → AbsoluteFits s → DerivativeFits ch num den s →
      startCommand op s = .next (((fed ch (tdiv num den) (afterAbsolute s)).withEst
          { s.est with lastAngle := meanWith .absAngle (absoluteDegrees s) s, lastTime := s.env.now }).emit
        (.response .ok (BitVec.ofInt 64 (meanWith ch (tdiv num den) s))))) ∧
    (elapsed s s.env.now ≠ 0 → ¬ (AbsoluteFits s ∧ DerivativeFits ch num den s) →
      startCommand op s = .fault .fxOverflow) ∧
    (elapsed s s.env.now = 0 → startCommand op s = .fault .zeroInterval) := by
  have hcore := afterBothReads_sameCore s
  have hest := hcore.entered op
  have hrun := startCommand_of_bothReadsOk hroom hboth hreads
  refine ⟨fun hdt hfits hder => ?_, fun hdt hfits => ?_, fun hdt => ?_⟩
  · have hend := finishOp_derivative_of_fits hest hd hdt hfits hder
    rw [fedAbsolute_entered, fed_entered, withEst_entered] at hend
    exact next_of_concluded hrun hend hroom (((hcore.sameDepth.feedAbsolute s _ _).feed _ _).setEst _) hidle
  · exact fault_of_concluded hrun (finishOp_derivative_of_not_fits hest hd hdt hfits)
  · exact fault_of_concluded hrun (finishOp_derivative_of_no_time hest hd hdt)

/-- Settles O39. -/
theorem speedByDifference : Obligations.SpeedByDifference := by
  intro s hroom hidle hstrategy hreads
  have hexec : exec .speed s = startCommand .speedDiff s := by simp only [exec, execSpeed, hstrategy]
  rw [hexec]
  exact derivativeCommand hroom hidle rfl hreads (.inl ⟨rfl, rfl, rfl, rfl⟩)

/-- Settles O41. -/
theorem accelerationCommand : Obligations.AccelerationCommand := fun _ hroom hidle hreads =>
  derivativeCommand (op := .accel) hroom hidle rfl hreads (.inr ⟨rfl, rfl, rfl, rfl⟩)

theorem execSetofs_eq (offset : U32) {s : State} (h : s.csCount ≠ 255) :
    execSetofs offset s = .next ((s.withEst { s.est with calibOfs := offset.toInt }).respond .ok 0) :=
  command_of_withCs h rfl rfl

/-- Settles O43. -/
theorem offsetCommands : Obligations.OffsetCommands := by
  intro offset s hroom hidle
  refine ⟨fun hreads => ?_, execSetofs_eq offset hroom.ne_full⟩
  have hcore := afterBothReads_sameCore s
  have hrun := startCommand_of_bothReadsOk (op := .zero) hroom rfl hreads
  refine ⟨fun hfits => ?_, fun hfits => ?_⟩
  · have hend := finishZero_of_fits (rev := wordAt s.env 1) (hcore.entered .zero) hfits
    rw [fed_entered, withEst_entered] at hend
    exact next_of_concluded hrun hend hroom ((hcore.sameDepth.feed _ _).setEst _) hidle
  · have hend := finishZero_of_not_fits (rev := wordAt s.env 1) (hcore.entered .zero) hfits
    exact fault_of_concluded hrun hend

end Sys2Proof.Machine
end

section
/-! SUPPORT. Failed and repeated attempts of the blocking read: waiting, the retry bound, and a command that goes on after failures
(43_motion_estimator.md R180, 70_reset_and_hazards.md R301). The last needs that nothing in an attempt reads `busy`, the command in
flight: each operation commutes with a write of it. -/

namespace Sys2Proof.Machine

open Sys2Proof

/-! ### A failed attempt in the step a command starts in -/

theorem currentTarget_of_start (c : Cfg) (op : EstOp) (now : U32) (n : Nat) :
    currentTarget c ⟨op, now, none, n⟩ = firstTarget c op := by
  simp only [currentTarget, firstTarget, and_true]

theorem startCommand_of_first_failed {op : EstOp} {s : State} (hroom : CanEnter (op.depth + 1) s)
    (h : ¬ ReadOk (firstTarget s.cfg op).1 (firstTarget s.cfg op).2 s) : startCommand op s =
      afterFailure ⟨op, s.env.now, none, 0⟩
        (entered op (afterAttempt (firstTarget s.cfg op).1 (firstTarget s.cfg op).2 true s)) := by
  rw [← currentTarget_of_start s.cfg op s.env.now 0] at h ⊢
  rw [startCommand_of_room hroom.of_add, ← afterAttempt_entered]
  exact attempt_of_readFailed (entered_ne_full hroom) h

theorem startCommand_of_second_failed {op : EstOp} {s : State} (hroom : CanEnter (op.depth + 1) s)
    (hboth : op.readsBoth = true) (hrev : ReadOk s.cfg.regRev 1 s)
    (h : ¬ ReadOk s.cfg.regAngle 1 (afterRead s.cfg.regRev 1 true s)) : startCommand op s =
      afterFailure ⟨op, s.env.now, some (wordAt s.env 1), 0⟩
        (entered op (afterAttempt s.cfg.regAngle 1 true (afterRead s.cfg.regRev 1 true s))) := by
  have hroom' := (afterRead_sameCore s.cfg.regRev 1 true s).canEnter hroom
  rw [startCommand_of_rev_readOk hroom hboth hrev, ← afterAttempt_entered]
  exact attemptLast_of_readFailed _ (lastTarget_afterRead hboth _ 1 s) (entered_ne_full hroom') h

/-- With a bound that is not 0, or none, the command waits with its sections held. -/
theorem afterFailure_waits {s t : State} {p : InFlight} (hst : SameCore s t) (hbound : s.cfg.maxRetries ≠ some 0)
    (hfirst : p.fails = 0) : afterFailure p (entered p.op t) =
      .next { t with csCount := s.csCount + BitVec.ofNat 8 p.op.depth, busy := some { p with fails := 1 } } := by
  have hleft : RetryLeft (entered p.op t).cfg p := by
    rw [entered, State.withCs_cfg, hst.cfg]
    unfold RetryLeft
    cases hk : s.cfg.maxRetries with
    | none => exact .inl rfl
    | some k => exact .inr ⟨k, rfl, hfirst ▸ Nat.pos_of_ne_zero fun h0 => hbound (by rw [hk, h0])⟩
  rw [afterFailure_of_left hleft, hfirst, entered, hst.csCount]
  rfl

/-- With the bound 0 the command is over, its sections left. -/
theorem afterFailure_bound_zero {s t : State} {p : InFlight} (hst : SameCore s t) (hroom : CanEnter p.op.depth s)
    (hbound : s.cfg.maxRetries = some 0) :
    afterFailure p (entered p.op t) = .next ((t.withBusy none).respond .retryExhausted 0) := by
  have hk : (entered p.op t).cfg.maxRetries = some 0 := (congrArg Cfg.maxRetries hst.cfg).trans hbound
  rw [afterFailure_of_spent hk (Nat.zero_le _) (depth_le_entered (hst.canEnter hroom)), released_entered]

/-- Settles O44. -/
theorem failedAttemptWaits : Obligations.FailedAttemptWaits := by
  intro i op s hop hroom hdiv hbound
  rw [exec_of_estOpOf hop hdiv]
  refine ⟨fun hfail => ?_, fun hboth hrev hfail => ?_⟩
  · rw [startCommand_of_first_failed hroom hfail]
    exact afterFailure_waits (afterAttempt_sameCore _ _ true s) hbound rfl
  · rw [startCommand_of_second_failed hroom hboth hrev hfail]
    exact afterFailure_waits ((afterRead_sameCore _ _ true s).trans (afterAttempt_sameCore _ _ true _)) hbound rfl

/-! ### A failed attempt of a waiting command -/

/-- With nothing arriving, a step of a waiting command is one more attempt of it, whatever its outcome (60_exceptions.md R267). -/
theorem step_eq_attempt {s : State} {p : InFlight} (hwf : s.cfg.wf = true) (hm : s.env.moments = []) (hp : s.busy = some p) :
    step s = attempt p s := by
  simp only [step, if_pos hwf, hm, nextWork, hp, perform]

theorem released_eq {s t : State} (hst : SameCore s t) (op : EstOp) :
    released op t = { t with csCount := s.csCount - BitVec.ofNat 8 op.depth, busy := none } := by
  rw [released, hst.csCount]
  rfl

/-- Settles O45. -/
theorem retryBoundSpent : Obligations.RetryBoundSpent := by
  refine ⟨fun i op s hop hroom hdiv hbound => ?_, fun s p hwf hm hp hheld hroom hfail => ?_⟩
  · rw [exec_of_estOpOf hop hdiv]
    refine ⟨fun hfail => ?_, fun hboth hrev hfail => ?_⟩
    · rw [startCommand_of_first_failed hroom hfail]
      exact afterFailure_bound_zero (afterAttempt_sameCore _ _ true s) hroom.of_add hbound
    · rw [startCommand_of_second_failed hroom hboth hrev hfail]
      exact afterFailure_bound_zero ((afterRead_sameCore _ _ true s).trans (afterAttempt_sameCore _ _ true _)) hroom.of_add hbound
  · have hst := afterAttempt_sameCore (currentTarget s.cfg p).1 (currentTarget s.cfg p).2 true s
    rw [step_eq_attempt hwf hm hp, attempt_of_readFailed hroom.ne_full hfail]
    refine ⟨fun k hk hspent => ?_, fun hleft => ?_⟩
    · rw [afterFailure_of_spent ((congrArg Cfg.maxRetries hst.cfg).trans hk) hspent (hst.csCount ▸ hheld), released_eq hst]
      rfl
    · exact afterFailure_of_left (by rwa [RetryLeft, hst.cfg])

/-! ### Nothing in an attempt reads the command in flight -/

/-- The same result with `busy` written in its state. -/
def thenBusy {α : Type} (b : Option InFlight) (r : Except Fault (α × State)) : Except Fault (α × State) :=
  r.map fun q => (q.1, q.2.withBusy b)

section
variable (s : State) (b : Option InFlight)

theorem cacheWord_withBusy (reg : RegNum) (w : Word) : cacheWord reg w (s.withBusy b) = (cacheWord reg w s).withBusy b := by
  unfold cacheWord
  rw [State.withBusy_cfg]
  split <;> rfl

theorem updateCache_withBusy (reg : RegNum) (d : List Word) :
    updateCache reg d (s.withBusy b) = (updateCache reg d s).withBusy b := by
  induction d generalizing reg s with
  | nil => rfl
  | cons w ws ih => rw [updateCache, cacheWord_withBusy, ih, updateCache]

theorem afterRead_withBusy (reg : RegNum) (n : BitVec 4) (safe : Bool) :
    afterRead reg n safe (s.withBusy b) = (afterRead reg n safe s).withBusy b :=
  updateCache_withBusy (afterMemRead reg n safe s) b reg (readWords n.toNat s.env)

theorem readOk_withBusy (reg : RegNum) (n : BitVec 4) : ReadOk reg n (s.withBusy b) ↔ ReadOk reg n s := Iff.rfl

theorem afterAttempt_withBusy (reg : RegNum) (n : BitVec 4) (safe : Bool) :
    afterAttempt reg n safe (s.withBusy b) = (afterAttempt reg n safe s).withBusy b := by
  have hkind : readKind reg n safe (s.withBusy b) = readKind reg n safe s := rfl
  unfold afterAttempt
  dsimp only
  rw [hkind, afterRead_withBusy, State.withBusy_cfg]
  split_ifs <;> rfl

theorem maAdd_withBusy (ch : Chan) (x : Fx) : maAdd ch x (s.withBusy b) = (maAdd ch x s).map (·.withBusy b) := by
  have hsame : SameChannel ch s (s.withBusy b) := ⟨rfl, rfl⟩
  by_cases h : SampleFits ch x s
  · rw [hsame.maAdd_of_fits h, maAdd_of_fits h]; rfl
  · rw [hsame.maAdd_of_not_fits h, maAdd_of_not_fits h]; rfl

theorem angleSample_withBusy (w : Word) : angleSample w (s.withBusy b) = thenBusy b (angleSample w s) := by
  have hangle : angleOf w (s.withBusy b) = angleOf w s := rfl
  rw [angleSample, hangle, maAdd_withBusy, angleSample]
  cases maAdd .angle (angleOf w s) s <;> rfl

theorem absAngleSample_withBusy (rev w : Word) : absAngleSample rev w (s.withBusy b) = thenBusy b (absAngleSample rev w s) := by
  have hrev : revSample rev (s.withBusy b) = revSample rev s := rfl
  simp only [absAngleSample, angleSample_withBusy, hrev, State.withBusy_cfg]
  cases angleSample w s with
  | error f => rfl
  | ok q =>
    cases fxCheck s.cfg (revSample rev s * fxTurn) with
    | error f => rfl
    | ok turns =>
      simp only [thenBusy, Except.map, maAdd_withBusy]
      cases maAdd .absAngle (turns + q.1) q.2 <;> rfl

theorem derivative_withBusy (ch : Chan) (a : Fx) (num den : Int) (now : U32) :
    derivative ch a num den now (s.withBusy b) = thenBusy b (derivative ch a num den now s) := by
  simp only [derivative, State.withBusy_cfg, maAdd_withBusy]
  cases fxCheck s.cfg num with
  | error f => rfl
  | ok x => cases h : maAdd ch (tdiv x den) s <;> simp only [h] <;> rfl

theorem setMotorState_withBusy (st : MotorState) (clr : Bool) :
    setMotorState st clr (s.withBusy b) = (setMotorState st clr s).withBusy b := by
  unfold setMotorState
  rw [State.withBusy_fm]
  split_ifs <;> rfl

theorem otEval_withBusy (t : Fx) (now : U32) : otEval t now (s.withBusy b) = (otEval t now s).withBusy b := by
  have hback : backOff now (s.withBusy b) = (backOff now s).withBusy b := rfl
  simp only [otEval, setMotorState_withBusy, hback, State.withBusy_fm, State.withBusy_cfg, apply_ite (State.withBusy · b)]

theorem finishOp_withBusy (op : EstOp) (now : U32) (rev : Word) (d : List Word) :
    finishOp op now rev d (s.withBusy b) = thenBusy b (finishOp op now rev d s) := by
  cases op with
  | angle u =>
    simp only [finishOp, finishAngle, angleSample_withBusy]
    cases angleSample (d.getD 0 0) s <;> rfl
  | arev => rfl
  | aangle =>
    simp only [finishOp, finishAangle, absAngleSample_withBusy]
    cases absAngleSample rev (d.getD 0 0) s <;> rfl
  | speedDiff | accel =>
    simp only [finishOp, finishSpeedDiff, finishAccel, absAngleSample_withBusy, State.withBusy_est]
    split_ifs
    · rfl
    · cases absAngleSample rev (d.getD 0 0) s with
      | error f => rfl
      | ok q => exact derivative_withBusy q.2 b _ _ _ _ now
  | speedReg =>
    simp only [finishOp, finishSpeedReg, maAdd_withBusy, State.withBusy_cfg]
    cases maAdd .speed _ s <;> rfl
  | temp =>
    simp only [finishOp, finishTemp, maAdd_withBusy, State.withBusy_cfg]
    cases maAdd .temp _ s with
    | error f => rfl
    | ok t => exact congrArg (fun u => Except.ok (_, u)) (otEval_withBusy t b _ now)
  | zero =>
    simp only [finishOp, finishZero, angleSample_withBusy, State.withBusy_est, State.withBusy_cfg]
    cases angleSample (d.getD 0 0) s with
    | error f => rfl
    | ok q =>
      simp only [thenBusy, Except.map]
      cases fxCheck s.cfg (s.est.startupAngleOfs + q.1) <;> rfl

/-- A command that ends is in flight no more, whatever `busy` held before. -/
theorem conclude_thenBusy (op : EstOp) (r : Except Fault (Reply × State)) : conclude op (thenBusy b r) = conclude op r := by
  cases r <;> rfl

end

theorem attemptLast_withBusy (p : InFlight) (rev : Word) {s : State} (b : Option InFlight) (hroom : s.csCount ≠ 255) :
    attemptLast p rev (s.withBusy b) = attemptLast p rev s := by
  have htarget : p.op.lastTarget s.cfg = ((p.op.lastTarget s.cfg).1, (p.op.lastTarget s.cfg).2) := rfl
  by_cases h : ReadOk (p.op.lastTarget s.cfg).1 (p.op.lastTarget s.cfg).2 s
  · have hbusy := attemptLast_of_readOk (s := s.withBusy b) rev htarget hroom ((readOk_withBusy s b _ _).mpr h)
    rw [hbusy, State.withBusy_env, afterRead_withBusy, finishOp_withBusy, conclude_thenBusy,
      attemptLast_of_readOk rev htarget hroom h]
  · have hbusy := attemptLast_of_readFailed (s := s.withBusy b) rev htarget hroom (mt (readOk_withBusy s b _ _).mp h)
    rw [hbusy, afterAttempt_withBusy, attemptLast_of_readFailed rev htarget hroom h]
    rfl

/-! ### A retried command -/

/-- An attempt of the first read that is `Ok` forgets the failures before it and what `busy` held. -/
theorem attempt_of_first_readOk {op : EstOp} {now : U32} {s : State} (n : Nat) (b : Option InFlight) (hroom : s.csCount ≠ 255)
    (h : ReadOk (firstTarget s.cfg op).1 (firstTarget s.cfg op).2 s) :
    attempt ⟨op, now, none, n⟩ (s.withBusy b) = attempt ⟨op, now, none, 0⟩ s := by
  cases hboth : op.readsBoth with
  | false =>
    have htarget : firstTarget s.cfg op = op.lastTarget s.cfg := if_neg (by simp [hboth])
    rw [htarget] at h
    have hend := fun n => attemptLast_of_readOk (p := ⟨op, now, none, n⟩) 0 rfl hroom h
    rw [attempt_of_single hboth, attempt_of_single hboth, attemptLast_withBusy _ _ b hroom, hend, hend]
  | true =>
    have htarget : firstTarget s.cfg op = (s.cfg.regRev, 1) := if_pos hboth
    rw [htarget] at h
    have hroom' : (afterRead s.cfg.regRev 1 true s).csCount ≠ 255 := by rwa [(afterRead_sameCore _ _ _ s).csCount]
    have hbusy := attempt_of_rev_readOk (p := ⟨op, now, none, n⟩) hboth rfl (s := s.withBusy b) hroom
      ((readOk_withBusy s b _ _).mpr h)
    rw [hbusy, attempt_of_rev_readOk hboth rfl hroom h, State.withBusy_cfg, afterRead_withBusy, attemptLast_withBusy _ _ b hroom',
      State.withBusy_env]

theorem Cfg.wf_tempDiv {c : Cfg} (h : c.wf = true) : c.tempDiv ≠ 0 := by
  simp only [Cfg.wf, Cfg.wfEstimator, Bool.and_eq_true, decide_eq_true_eq] at h
  obtain ⟨⟨-, ⟨⟨⟨⟨-, hdiv⟩, -⟩, -⟩, -⟩, -⟩, -⟩ := h
  exact hdiv

/-- A step of a command that stands at its angle read with the revolution word `rev`: where the attempt is `Ok`, both words are put
to use. -/
theorem step_of_second_readOk {op : EstOp} {now : U32} {rev : Word} {n : Nat} {s : State} (hwf : s.cfg.wf = true)
    (hm : s.env.moments = []) (hp : s.busy = some ⟨op, now, some rev, n⟩) (hroom : CanEnter 1 s)
    (hread : ReadOk s.cfg.regAngle 1 s) (hboth : op.readsBoth = true) : step s =
      conclude op (finishOp op now rev [wordAt s.env 1] (afterRead s.cfg.regAngle 1 true s)) := by
  rw [step_eq_attempt hwf hm hp, attempt_of_rev hboth rfl, ← readWords_one]
  exact attemptLast_of_readOk (p := ⟨op, now, some rev, n⟩) rev (EstOp.lastTarget_of_readsBoth hboth s.cfg) hroom.ne_full hread

/-- A waiting command that ends: what it did stands, its sections are left. -/
theorem next_of_held {o : Host.Outcome State Fault Refusal} {op : EstOp} {e : Except Fault (Reply × State)} {r : Reply}
    {s t : State} (hrun : o = conclude op e) (hend : e = .ok (r, t)) (hheld : op.depth ≤ s.csCount.toNat) (hst : SameDepth s t) :
    o = .next ((released op t).respond r.status r.data) := by
  rw [hrun, hend, conclude_of_held r (hst.csCount ▸ hheld)]

theorem released_fed (op : EstOp) (ch : Chan) (x : Fx) (t : State) : released op (fed ch x t) = fed ch x (released op t) := rfl

theorem released_fedAbsolute (op : EstOp) (s : State) (rev w : Word) (t : State) :
    released op (fedAbsolute s rev w t) = fedAbsolute s rev w (released op t) := rfl

theorem released_withEst (op : EstOp) (x : EstRegs) (t : State) : released op (t.withEst x) = (released op t).withEst x := rfl

/-- Settles O46. -/
theorem retriedCommandGoesOn : Obligations.RetriedCommandGoesOn := by
  refine ⟨fun i op n s hwf hm hop hroom hread => ?_, fun op now rev n s hwf hm hp hheld hroom hread => ?_⟩
  · rw [exec_of_estOpOf hop (Cfg.wf_tempDiv hwf), startCommand_of_room hroom.of_add,
      ← attempt_of_first_readOk n (some ⟨op, s.env.now, none, n⟩) (entered_ne_full hroom) hread]
    exact step_eq_attempt hwf hm rfl
  · have hcore := afterRead_sameCore s.cfg.regAngle 1 true s
    have hest := hcore.sameEstimator
    have hrun := step_of_second_readOk hwf hm hp hroom hread
    dsimp only
    rw [← released_eq hcore op]
    refine ⟨?_, ?_, fun ch num den hd => ?_, ?_, ?_⟩
    · rintro rfl hfits
      have hnext := next_of_held (hrun rfl) (finishAangle_of_fits hest hfits) hheld (hcore.sameDepth.feedAbsolute s _ _)
      rwa [released_fedAbsolute] at hnext
    · rintro rfl hfits
      exact fault_of_concluded (hrun rfl) (finishAangle_of_not_fits hest hfits)
    · have hboth : op.readsBoth = true := by obtain ⟨rfl, -⟩ | ⟨rfl, -⟩ := hd <;> rfl
      refine ⟨fun hdt hfits hder => ?_, fun hdt hfits => ?_, fun hdt => ?_⟩
      · have hnext := next_of_held (hrun hboth) (finishOp_derivative_of_fits hest hd hdt hfits hder) hheld
          (((hcore.sameDepth.feedAbsolute s _ _).feed _ _).setEst _)
        rwa [released_withEst, released_fed, released_fedAbsolute] at hnext
      · exact fault_of_concluded (hrun hboth) (finishOp_derivative_of_not_fits hest hd hdt hfits)
      · exact fault_of_concluded (hrun hboth) (finishOp_derivative_of_no_time hest hd hdt)
    · rintro rfl hfits
      have hnext := next_of_held (hrun rfl) (finishZero_of_fits hest hfits) hheld ((hcore.sameDepth.feed _ _).setEst _)
      rwa [released_withEst, released_fed] at hnext
    · rintro rfl hfits
      exact fault_of_concluded (hrun rfl) (finishZero_of_not_fits hest hfits)

end Sys2Proof.Machine
end

section
/-! SUPPORT. The fault monitor's operations and commands, each branch an equation (44_fault_monitor.md R210 to R221). -/

namespace Sys2Proof.Machine

open Sys2Proof

/-! ### `SetMotorState` (R210) -/

theorem setMotorState_of_emits {st : MotorState} {clr : Bool} {s : State} (h : s.fm.motorState ≠ st ∨ clr = true) :
    setMotorState st clr s =
      { s with fm := { s.fm with motorState := st }, trace := s.trace ++ [.motorState st clr] } := by
  rw [setMotorState, if_pos h]
  rfl

theorem setMotorState_of_same {st : MotorState} {s : State} (h : s.fm.motorState = st) : setMotorState st false s = s := by
  subst h
  rw [setMotorState, if_neg (by simp)]
  rfl

/-- Settles O49. -/
theorem setMotorStateRule : Obligations.SetMotorStateRule := fun _ _ _ =>
  ⟨setMotorState_of_emits, fun hsame hclr => hclr ▸ setMotorState_of_same hsame⟩

/-! ### `OtEval` (R211, R214) -/

theorem otEval_of_latched {t : Fx} {now : U32} {s : State} (h : s.fm.motorState = .overtemperature) :
    otEval t now s = if t < s.cfg.otClear then setMotorState .disabled true s else s :=
  if_pos h

theorem otEval_of_shutdown {t : Fx} {now : U32} {s : State} (h : s.fm.motorState ≠ .overtemperature)
    (ht : s.cfg.otShutdown ≤ t) : otEval t now s = setMotorState .overtemperature false s := by
  rw [otEval, if_neg h, if_pos ht]

theorem otEval_of_below_shutdown {t : Fx} {now : U32} {s : State} (h : s.fm.motorState ≠ .overtemperature)
    (ht : t < s.cfg.otShutdown) : otEval t now s =
      if s.cfg.otWarn ≤ t ∧ s.cfg.otInterval.toNat ≤ (now - s.fm.lastOtTime).toNat then backOff now s else s := by
  rw [otEval, if_neg h, if_neg (Int.not_le.mpr ht)]
  rfl

/-- Settles O50. -/
theorem otEvalRule : Obligations.OtEvalRule := by
  intro t now s
  refine ⟨fun hlatched hcool => ?_, fun hlatched hhot => ?_, otEval_of_shutdown, fun hfree hbelow hwarn hdue => ?_,
    fun hfree hbelow hquiet => ?_⟩
  · rw [otEval_of_latched hlatched, if_pos hcool]
  · rw [otEval_of_latched hlatched, if_neg (Int.not_lt.mpr hhot)]
  · rw [otEval_of_below_shutdown hfree hbelow, if_pos ⟨hwarn, hdue⟩]
    rfl
  · rw [otEval_of_below_shutdown hfree hbelow]
    exact if_neg fun ⟨hwarn, hdue⟩ => hquiet.elim (Int.not_lt.mpr hwarn) (Nat.not_lt.mpr hdue)

/-! ### `StallEval` (R215, R216) -/

/-- The count goes up by one and stops at the largest value of its register. -/
theorem stallCountUp_toNat (n : U32) : (stallCountUp n).toNat = min (n.toNat + 1) (2 ^ 32 - 1) := by
  unfold stallCountUp
  split_ifs with h
  · subst h; rfl
  · bv_omega

theorem stallCondition_iff {c : Cfg} {count : Nat} {e : Int} : stallCondition c count e = true ↔
    (count : Int) * 65536 > c.faultTimeS * c.correctionFreqHz ∨ e.natAbs > c.faultStepThreshold := by
  simp only [stallCondition, overLimit, Bool.or_eq_true, decide_eq_true_eq]

/-- Settles O51. -/
theorem stallEvalRule : Obligations.StallEvalRule := by
  intro e s
  have hcount : (stallEval e s).fm.stallCount.toNat = _ := stallCountUp_toNat s.fm.stallCount
  have hout : (stallEval e s).fm.stallOut = true ↔
      s.fm.stallOut = true ∨ stallCondition s.cfg (stallEval e s).fm.stallCount.toNat e = true := Bool.or_eq_true_iff
  rw [hcount, stallCondition_iff] at hout
  exact ⟨hcount, hout, rfl⟩

/-! ### The commands (R218 to R221) -/

theorem applySetState_of_ignored {st : MotorState} {s : State} (h : s.fm.motorState = .overtemperature) :
    applySetState st false s = s :=
  if_pos ⟨h, rfl⟩

theorem applySetState_of_clear (st : MotorState) (s : State) :
    applySetState st true s = setMotorState st true (clearStall s) :=
  if_neg (by simp)

theorem applySetState_of_heeded {st : MotorState} {s : State} (h : s.fm.motorState ≠ .overtemperature) :
    applySetState st false s = setMotorState st false s :=
  if_neg fun hignored => h hignored.1

/-- Without a clear the state is written, and emitted only where it changes. -/
theorem setMotorState_of_no_clear (st : MotorState) (s : State) : setMotorState st false s =
    { s with
      fm := { s.fm with motorState := st },
      trace := s.trace ++ (if s.fm.motorState = st then [] else [.motorState st false]) } := by
  by_cases h : s.fm.motorState = st
  · subst h
    rw [setMotorState_of_same rfl, if_pos rfl, List.append_nil]
  · rw [setMotorState_of_emits (.inl h), if_neg h]

/-- `SETSTATE` takes its effect, then responds with the state now held. -/
theorem execSetstate_eq (st : MotorState) (clr : Bool) {s : State} (h : s.csCount ≠ 255) :
    execSetstate st clr s =
      .next ((applySetState st clr s).respond .ok ((applySetState st clr s).fm.motorState.code.setWidth 64)) := by
  refine command_of_withCs h ?_ (applySetState_outside st clr s).csCount
  rw [applySetState_withCs]
  rfl

theorem execGetstate_eq {s : State} (h : s.csCount ≠ 255) : execGetstate s = .next (s.respond .ok (statusWord s.fm)) :=
  command_of_withCs h rfl rfl

theorem execSetcur_eq (mA : Word) {s : State} (h : s.csCount ≠ 255) : execSetcur mA s =
    .next (((s.withFm { s.fm with rmsCurrent := mA }).emit (.rmsCurrent mA)).respond .ok 0) :=
  command_of_withCs h rfl rfl

theorem execGetcur_eq {s : State} (h : s.csCount ≠ 255) :
    execGetcur s = .next (s.respond .ok (s.fm.rmsCurrent.setWidth 64)) :=
  command_of_withCs h rfl rfl

theorem execSetstate_of_ignored (st : MotorState) {s : State} (h : s.csCount ≠ 255)
    (hlatched : s.fm.motorState = .overtemperature) : execSetstate st false s = .next (s.respond .ok 4) := by
  rw [execSetstate_eq st false h, applySetState_of_ignored hlatched, hlatched]
  rfl

theorem execSetstate_of_clear (st : MotorState) {s : State} (h : s.csCount ≠ 255) : execSetstate st true s = .next { s with
    fm := { s.fm with motorState := st, stallCount := 0, stallOut := false },
    trace := s.trace ++ [.motorState st true, .response .ok (st.code.setWidth 64)] } := by
  rw [execSetstate_eq st true h, applySetState_of_clear, setMotorState_of_emits (.inr rfl)]
  simp [State.respond, State.emit, clearStall, State.withFm]

theorem execSetstate_of_heeded (st : MotorState) {s : State} (h : s.csCount ≠ 255)
    (hfree : s.fm.motorState ≠ .overtemperature) : execSetstate st false s = .next { s with
      fm := { s.fm with motorState := st },
      trace := s.trace ++ (if s.fm.motorState = st then [] else [.motorState st false]) ++
        [.response .ok (st.code.setWidth 64)] } := by
  rw [execSetstate_eq st false h, applySetState_of_heeded hfree, setMotorState_of_no_clear]
  rfl

/-- Settles O53. -/
theorem monitorCommands : Obligations.MonitorCommands := by
  intro st clr mA s hroom
  have h : s.csCount ≠ 255 := hroom.ne_full
  refine ⟨fun hlatched hclr => ?_, fun hclr => ?_, fun hfree hclr => ?_, execGetstate_eq h, ?_, execGetcur_eq h⟩
  · subst hclr; exact execSetstate_of_ignored st h hlatched
  · subst hclr; exact execSetstate_of_clear st h
  · subst hclr; exact execSetstate_of_heeded st h hfree
  · refine (execSetcur_eq mA h).trans ?_
    simp [State.respond, State.emit, State.withFm]

end Sys2Proof.Machine
end

section
/-! SUPPORT. The moves of the motor state: `MotorMove` lists every way an instruction can take it from one state to another
(44_fault_monitor.md R211, R212, R218, 45_correction_scheduler.md R236). -/

namespace Sys2Proof.Machine

open Sys2Proof

/-- An instruction may take the motor from a state `a` to a state `b`. -/
inductive MotorMove : Instr → MotorState → MotorState → Prop
  | stays {i : Instr} {a b : MotorState} (h : b = a) : MotorMove i a b
  | commanded {a : MotorState} (st : MotorState) (clr : Bool) (h : a = .overtemperature → clr = true) :
      MotorMove (.setstate st clr) a st
  | cools : MotorMove .temp .overtemperature .disabled
  | overheats (a : MotorState) : MotorMove .temp a .overtemperature
  | ticks {a b : MotorState} (hfree : a ≠ .overtemperature) (hto : b = .enabled ∨ b = .disabled) : MotorMove .evTick a b

theorem MotorMove.leaves_overtemperature {i : Instr} {a b : MotorState} (h : MotorMove i a b) (ha : a = .overtemperature)
    (hb : b ≠ .overtemperature) : (i = .temp ∧ b = .disabled) ∨ ∃ st, i = .setstate st true ∧ b = st := by
  cases h with
  | stays heq => exact absurd (heq.trans ha) hb
  | commanded _ clr hclr => obtain rfl := hclr ha; exact .inr ⟨b, rfl, rfl⟩
  | cools => exact .inl ⟨rfl, rfl⟩
  | overheats => exact absurd rfl hb
  | ticks hfree => exact absurd ha hfree

theorem MotorMove.enters_forced {i : Instr} {a b : MotorState} (h : MotorMove i a b) (hne : b ≠ a)
    (hb : b = .forcedEnabled ∨ b = .forcedDisabled) : ∃ st clr, i = .setstate st clr ∧ b = st := by
  cases h with
  | stays heq => exact absurd heq hne
  | commanded _ clr => exact ⟨b, clr, rfl, rfl⟩
  | cools | overheats => simp at hb
  | ticks _ hto => obtain rfl | rfl := hto <;> simp at hb

/-! ### The three instructions that move it -/

theorem applySetState_motorMove (st : MotorState) (clr : Bool) (s : State) :
    MotorMove (.setstate st clr) s.fm.motorState (applySetState st clr s).fm.motorState := by
  unfold applySetState
  split_ifs with hignored hclr
  · exact .stays rfl
  · rw [setMotorState_fm]; exact .commanded st clr fun _ => hclr
  · rw [setMotorState_fm]; exact .commanded st clr fun hlatched => by simpa [hlatched] using hignored

theorem execSetstate_motorMove {st : MotorState} {clr : Bool} {s t : State} (h : execSetstate st clr s = .next t) :
    MotorMove (.setstate st clr) s.fm.motorState t.fm.motorState := by
  obtain ⟨-, r, u, hu, -, rfl⟩ := command_next_iff.mp h
  cases hu
  exact applySetState_motorMove st clr (s.withCs (s.csCount + 1))

theorem otEval_motorMove (x : Fx) (now : U32) (s : State) :
    MotorMove .temp s.fm.motorState (otEval x now s).fm.motorState := by
  unfold otEval
  split_ifs with hlatched
  · rw [hlatched, setMotorState_fm]; exact .cools
  · exact .stays rfl
  · rw [setMotorState_fm]; exact .overheats _
  · exact .stays rfl
  · exact .stays rfl

theorem tickCorrection_motorState {s t : State} (h : tickCorrection s = .ok t) : t.fm.motorState = s.fm.motorState := by
  unfold tickCorrection at h
  dsimp only at h
  split_ifs at h
  · cases h; rfl
  · cases hc : correct (stepError s) s with
    | error f => rw [hc] at h; cases h
    | ok u =>
      rw [hc] at h
      cases h
      obtain ⟨-, hfm⟩ := correct_outside hc
      exact (congrArg FaultRegs.motorState hfm :)

theorem tick_motorMove {s t : State} (h : tick s = .ok t) : MotorMove .evTick s.fm.motorState t.fm.motorState := by
  unfold tick at h
  split_ifs at h with _ hblocked
  · cases h; exact .stays rfl
  · cases h; exact .stays rfl
  · cases h
    refine .ticks (fun hlatched => hblocked (.inr hlatched)) (.inr ?_)
    simp [setStallOut]
  · exact .stays (tickCorrection_motorState h)
  · refine .ticks (fun hlatched => hblocked (.inr hlatched)) (.inl ?_)
    simp [tickCorrection_motorState h]

theorem execEvTick_motorMove {s t : State} (h : execEvTick s = .next t) :
    MotorMove .evTick s.fm.motorState t.fm.motorState := by
  obtain ⟨-, u, hu, -, rfl⟩ := handler_next_iff.mp h
  exact (tick_motorMove hu :)

/-! ### The estimator commands -/

/-- `TEMP` is the one estimator command that touches the fault monitor (43_motion_estimator.md R195). -/
theorem finishOp_fm {op : EstOp} {now : U32} {rev : Word} {d : List Word} {s t : State} {r : Reply} (hop : op ≠ .temp)
    (h : finishOp op now rev d s = .ok (r, t)) : t.fm = s.fm := by
  cases op with
  | angle u =>
    simp only [finishOp, finishAngle] at h
    split at h
    next => cases h
    next hs => cases h; obtain ⟨b, rfl⟩ := angleSample_moves_filters hs; rfl
  | arev => cases h; rfl
  | aangle =>
    simp only [finishOp, finishAangle] at h
    split at h
    next => cases h
    next hs => cases h; obtain ⟨b, rfl⟩ := absAngleSample_moves_filters hs; rfl
  | speedDiff | accel =>
    simp only [finishOp, finishSpeedDiff, finishAccel] at h
    split_ifs at h
    split at h
    next => cases h
    next hs =>
      obtain ⟨_, rfl⟩ := absAngleSample_moves_filters hs
      obtain ⟨b, x, rfl⟩ := derivative_moves_estimator h
      rfl
  | speedReg =>
    simp only [finishOp, finishSpeedReg] at h
    split at h
    next => cases h
    next hm => cases h; obtain ⟨b, rfl⟩ := maAdd_moves_filters hm; rfl
  | temp => exact absurd rfl hop
  | zero =>
    simp only [finishOp, finishZero] at h
    split at h
    next => cases h
    next hs =>
      split at h
      next => cases h
      next => cases h; obtain ⟨b, rfl⟩ := angleSample_moves_filters hs; rfl

/-- The fault monitor after an attempt of an estimator command is as before, or as the end of the command leaves it. -/
theorem startCommand_fm_cases {op : EstOp} {s t : State} (h : startCommand op s = .next t) :
    t.fm = s.fm ∨ ∃ u v rev d r, u.fm = s.fm ∧ finishOp op s.env.now rev d u = .ok (r, v) ∧ t.fm = v.fm := by
  obtain ⟨n, hstep⟩ := startCommand_estimatorStep h
  cases hstep with
  | waits p hread => exact .inl hread.fm
  | exhausted n k data hread => exact .inl hread.fm
  | finished n hread hf => exact .inr ⟨_, _, _, _, _, hread.fm, hf, rfl⟩

theorem execTemp_motorMove {s t : State} (h : execTemp s = .next t) : MotorMove .temp s.fm.motorState t.fm.motorState := by
  unfold execTemp at h
  split_ifs at h
  obtain hfm | ⟨u, v, rev, d, r, hu, hf, hfm⟩ := startCommand_fm_cases h
  · exact .stays (congrArg FaultRegs.motorState hfm)
  · rw [hfm, ← hu]
    obtain ⟨b, x, rfl⟩ | ⟨b, temp, rfl⟩ := finishOp_cases hf
    · exact .stays rfl
    · exact otEval_motorMove temp s.env.now (u.withMa b)

/-! ### The instructions that keep it -/

/-- Where the outcome is a next state, the motor is in the state it was in at `s`. -/
def KeepsMotor (s : State) (o : Host.Outcome State Fault Refusal) : Prop :=
  ∀ t, o = .next t → t.fm.motorState = s.fm.motorState

theorem SameCore.motorState {s t : State} (h : SameCore s t) : t.fm.motorState = s.fm.motorState :=
  congrArg FaultRegs.motorState h.fm

theorem startCommand_keepsMotor {op : EstOp} (hop : op ≠ .temp) (s : State) : KeepsMotor s (startCommand op s) := by
  intro t h
  obtain hfm | ⟨u, v, rev, d, r, hu, hf, hfm⟩ := startCommand_fm_cases h
  · rw [hfm]
  · rw [hfm, finishOp_fm hop hf, hu]

theorem refuseCommand_keepsMotor (k : Status) (s : State) : KeepsMotor s (refuseCommand k s) := by
  rintro t ⟨⟩
  rfl

theorem command_keepsMotor {body : State → Except Fault (Reply × State)}
    (hb : ∀ s1 r u, body s1 = .ok (r, u) → u.fm.motorState = s1.fm.motorState) (s : State) :
    KeepsMotor s (command body s) := by
  intro t h
  obtain ⟨-, r, u, hu, -, rfl⟩ := command_next_iff.mp h
  exact (hb _ r u hu :)

/-- A command whose body cannot fail. -/
theorem command_ok_keepsMotor {reply : State → Reply} {next : State → State}
    (hn : ∀ s1, (next s1).fm.motorState = s1.fm.motorState) (s : State) :
    KeepsMotor s (command (fun s1 => .ok (reply s1, next s1)) s) :=
  command_keepsMotor (by rintro s1 r u ⟨⟩; exact hn s1) s

/-- A handler whose body cannot fail. -/
theorem handler_ok_keepsMotor {next : State → State} (hn : ∀ s1, (next s1).fm.motorState = s1.fm.motorState) (s : State) :
    KeepsMotor s (handler (fun s1 => .ok (next s1)) s) := by
  intro t h
  obtain ⟨-, u, hu, -, rfl⟩ := handler_next_iff.mp h
  cases hu
  exact (hn (s.withCs (s.csCount + 1)) :)

theorem ite_keepsMotor {p : Prop} [Decidable p] {s : State} {o o' : Host.Outcome State Fault Refusal} (h : KeepsMotor s o)
    (h' : KeepsMotor s o') : KeepsMotor s (if p then o else o') := by
  split_ifs
  · exact h
  · exact h'

theorem execCsenter_keepsMotor (s : State) : KeepsMotor s (execCsenter s) := by
  intro t h
  by_cases hfull : s.csCount = 255
  · rw [execCsenter_of_full hfull] at h; cases h
  · rw [execCsenter_of_room hfull] at h; cases h; rfl

theorem execCsexit_keepsMotor (s : State) : KeepsMotor s (execCsexit s) := by
  intro t h
  by_cases hnone : s.csCount = 0
  · rw [execCsexit_of_none hnone] at h; cases h
  · rw [execCsexit_of_held hnone] at h; cases h; rfl

theorem execMaadd_keepsMotor (ch : Chan) (x : U32) (s : State) : KeepsMotor s (execMaadd ch x s) := by
  refine command_keepsMotor (fun s1 r u hb => ?_) s
  split at hb
  next => cases hb
  next hm => cases hb; obtain ⟨b, rfl⟩ := maAdd_moves_filters hm; rfl

theorem execGetbf_keepsMotor (idx : Byte) (s : State) : KeepsMotor s (execGetbf idx s) := by
  unfold execGetbf
  split
  · exact refuseCommand_keepsMotor _ s
  · exact command_keepsMotor (fun _ _ _ hb => (getField_sameCore hb).motorState) s

theorem execSetbf_keepsMotor (idx : Byte) (v : Word) (s : State) : KeepsMotor s (execSetbf idx v s) := by
  unfold execSetbf
  split
  · exact refuseCommand_keepsMotor _ s
  · exact command_keepsMotor (fun _ _ _ hb => (setField_sameCore hb).motorState) s

theorem execSpeed_keepsMotor (s : State) : KeepsMotor s (execSpeed s) := by
  unfold execSpeed
  split
  · exact startCommand_keepsMotor (by simp) s
  · exact startCommand_keepsMotor (by simp) s

theorem execEvSched_keepsMotor (s : State) : KeepsMotor s (execEvSched s) :=
  handler_ok_keepsMotor (fun _ => by split_ifs <;> rfl) s

theorem execEvFine_keepsMotor (s : State) : KeepsMotor s (execEvFine s) :=
  handler_ok_keepsMotor (fun _ => by split_ifs <;> rfl) s

theorem exec_keepsMotor {i : Instr} (s : State) (hset : ∀ st clr, i ≠ .setstate st clr) (htemp : i ≠ .temp)
    (htick : i ≠ .evTick) : KeepsMotor s (exec i s) := by
  cases i with
  | setstate st clr => exact absurd rfl (hset st clr)
  | temp => exact absurd rfl htemp
  | evTick => exact absurd rfl htick
  | csenter => exact execCsenter_keepsMotor s
  | csexit => exact execCsexit_keepsMotor s
  | maadd => exact execMaadd_keepsMotor _ _ s
  | rdreg => exact command_keepsMotor (fun _ _ _ hb => (readBody_sameCore hb).motorState) s
  | rdburst =>
    exact ite_keepsMotor (refuseCommand_keepsMotor _ s)
      (command_keepsMotor (fun _ _ _ hb => (readBody_sameCore hb).motorState) s)
  | wrreg => exact command_ok_keepsMotor (fun s1 => (memWrite_sameCore _ _ s1).motorState) s
  | getbf => exact execGetbf_keepsMotor _ s
  | setbf => exact execSetbf_keepsMotor _ _ s
  | valsafe => exact command_ok_keepsMotor (fun s1 => (validateAndReset_sameCore s1).motorState) s
  | sreset => exact command_ok_keepsMotor (fun s1 => (safetyReset_sameCore s1).motorState) s
  | macfg | txbld => exact ite_keepsMotor (command_ok_keepsMotor (fun _ => by rfl) s) (refuseCommand_keepsMotor _ s)
  | sched =>
    exact ite_keepsMotor (refuseCommand_keepsMotor _ s)
      (ite_keepsMotor (refuseCommand_keepsMotor _ s) (command_ok_keepsMotor (fun _ => by rfl) s))
  | speed => exact execSpeed_keepsMotor s
  | angle | arev | aangle | accel | zero => exact startCommand_keepsMotor (by simp) s
  | maval | txbrd | setofs | getstate | setcur | getcur | setdes | setpos | geterr | getpos | cten =>
    exact command_ok_keepsMotor (fun _ => by rfl) s
  | evStepedge => exact handler_ok_keepsMotor (fun _ => by rfl) s
  | evSched => exact execEvSched_keepsMotor s
  | evFine => exact execEvFine_keepsMotor s

/-! ### Every instruction -/

theorem exec_motorMove {i : Instr} {s t : State} (h : exec i s = .next t) :
    MotorMove i s.fm.motorState t.fm.motorState := by
  cases i with
  | setstate => exact execSetstate_motorMove h
  | temp => exact execTemp_motorMove h
  | evTick => exact execEvTick_motorMove h
  | _ => exact .stays (exec_keepsMotor s (by simp) (by simp) (by simp) t h)

/-- Settles O52: of the moves of the motor state, only two kinds leave `Overtemperature` and one enters a forced state. -/
theorem overtemperatureLatch : Obligations.OvertemperatureLatch := fun _ _ _ h =>
  ⟨(exec_motorMove h).leaves_overtemperature, (exec_motorMove h).enters_forced⟩

end Sys2Proof.Machine
end

section
/-! SUPPORT. The correction scheduler's operations, commands and events, each branch an equation (45_correction_scheduler.md R230 to
R247). -/

namespace Sys2Proof.Machine

open Sys2Proof

/-! ### An issued step (R231) -/

/-- Settles O55: the direction of the step is written out case by case. -/
theorem issueStepRule : Obligations.IssueStepRule := by
  intro dir updDes s
  cases dir <;> rfl

/-! ### The commands (R233 to R238, R246) -/

theorem execSetdes_eq (pos : U32) {s : State} (h : s.csCount ≠ 255) :
    execSetdes pos s = .next ((s.withSch { s.sch with desiredStep := pos }).respond .ok 0) :=
  command_of_withCs h rfl rfl

theorem execSetpos_eq (pos : U32) {s : State} (h : s.csCount ≠ 255) :
    execSetpos pos s = .next ((s.withSch { s.sch with currentStep := pos }).respond .ok 0) :=
  command_of_withCs h rfl rfl

theorem execGeterr_eq {s : State} (h : s.csCount ≠ 255) :
    execGeterr s = .next (s.respond .ok (dataOfInt (stepError s))) :=
  command_of_withCs h rfl rfl

theorem execGetpos_eq {s : State} (h : s.csCount ≠ 255) :
    execGetpos s = .next (s.respond .ok (s.sch.desiredStep ++ s.sch.currentStep)) :=
  command_of_withCs h rfl rfl

theorem execCten_eq (enable : Bool) {s : State} (h : s.csCount ≠ 255) : execCten enable s =
    .next ((s.withSch { s.sch with
      tickEnabled := enable, fineEnabled := enable && s.sch.fineEnabled }).respond .ok 0) :=
  command_of_withCs h rfl rfl

/-- The state in which `SCHED` with operands that are not refused leaves the machine, before its response (R246). -/
def scheduled (dir : Dir) (rate : Word) (count : U32) (s : State) : State :=
  s.withSch { s.sch with
    schedDir := dir, schedRate := rate, schedCount := count, schedActive := decide (0 < count.toNat) }

theorem execSched_of_armable (dir : Dir) {rate : Word} (count : U32) {s : State} (h : s.csCount ≠ 255)
    (hpresent : s.cfg.schedPresent = true) (hrate : rate ≠ 0) :
    execSched dir rate count s = .next ((scheduled dir rate count s).respond .ok 0) := by
  rw [execSched, if_neg (by simp [hpresent]), if_neg hrate]
  exact command_of_withCs h rfl rfl

theorem execSched_of_absent (dir : Dir) (rate : Word) (count : U32) {s : State} (h : s.cfg.schedPresent = false) :
    execSched dir rate count s = .next (s.respond .illegalCommand 0) :=
  if_pos h

theorem execSched_of_zero_rate (dir : Dir) (count : U32) {s : State} (hpresent : s.cfg.schedPresent = true) :
    execSched dir 0 count s = .next (s.respond .illegalOperand 0) := by
  rw [execSched, if_neg (by simp [hpresent]), if_pos rfl]
  rfl

theorem toNat_pos_iff_ne_zero {n : U32} : 0 < n.toNat ↔ n ≠ 0 := by
  bv_omega

/-- Settles O54. -/
theorem schedulerCommands : Obligations.SchedulerCommands := by
  intro pos dir rate count s hroom
  have h : s.csCount ≠ 255 := hroom.ne_full
  refine ⟨execSetdes_eq pos h, execSetpos_eq pos h, execGeterr_eq h, execGetpos_eq h, execCten_eq true h, execCten_eq false h,
    fun hpresent hrate => ?_, execSched_of_absent dir rate count, fun hpresent hrate => ?_⟩
  · have harmed : decide (count ≠ 0) = decide (0 < count.toNat) := decide_eq_decide.mpr toNat_pos_iff_ne_zero.symm
    rw [harmed]
    exact execSched_of_armable dir count h hpresent hrate
  · subst hrate
    exact execSched_of_zero_rate dir count hpresent

/-! ### The events of a step (R242, R243, R247) -/

/-- A handler whose body does inside the section what it would do outside: the depth is as before at its end. -/
theorem handler_of_withCs {body : State → Except Fault State} {s u : State} (h : s.csCount ≠ 255)
    (hb : body (s.withCs (s.csCount + 1)) = .ok (u.withCs (s.csCount + 1))) (hu : u.csCount = s.csCount) :
    handler body s = .next u := by
  rw [handler_balanced h hb rfl, State.withCs_withCs, ← hu, State.withCs_same]

/-- A handler whose body stops stops with it. -/
theorem handler_fault {body : State → Except Fault State} {s : State} {f : Fault} (h : s.csCount ≠ 255)
    (hb : body (s.withCs (s.csCount + 1)) = .error f) : handler body s = .fault f := by
  have hs : inSection (fun s1 => silent (body s1)) s = .error f := by
    rw [inSection, csEnter_ok_iff.mpr ⟨h, rfl⟩]
    simp only [hb, silent, Except.map]
  rw [handler, hs]

theorem execEvFine_of_armed {s : State} (h : s.csCount ≠ 255) (harmed : s.sch.fineEnabled = true) :
    execEvFine s = .next (issueStep s.sch.fineDir false s) :=
  handler_of_withCs h (congrArg Except.ok (if_pos harmed)) rfl

theorem execEvFine_of_disarmed {s : State} (h : s.csCount ≠ 255) (hoff : s.sch.fineEnabled = false) :
    execEvFine s = .next s :=
  handler_of_withCs h (congrArg Except.ok (if_neg (by simp [hoff]))) rfl

theorem execEvStepedge_eq {s : State} (h : s.csCount ≠ 255) : execEvStepedge s =
    .next (s.withSch { s.sch with desiredStep := stepped s.sch.desiredStep (dirIn s) }) :=
  handler_of_withCs h rfl rfl

/-- The direction input: low is forward (R243, 10_state.md R37). -/
theorem dirInt_dirIn (s : State) : dirInt (dirIn s) = if s.env.dirIn then -1 else 1 := by
  unfold dirIn
  cases s.env.dirIn <;> rfl

theorem execEvSched_of_armed {s : State} (h : s.csCount ≠ 255) (hpresent : s.cfg.schedPresent = true)
    (harmed : s.sch.schedActive = true) : execEvSched s = .next (schedFire s) :=
  handler_of_withCs h (congrArg Except.ok (if_pos (by simp [hpresent, harmed]))) rfl

theorem execEvSched_of_disarmed {s : State} (h : s.csCount ≠ 255)
    (hoff : s.cfg.schedPresent = false ∨ s.sch.schedActive = false) : execEvSched s = .next s :=
  handler_of_withCs h (congrArg Except.ok (if_neg (by simpa using fun hpresent => hoff.resolve_left (by simp [hpresent])))) rfl

/-- The countdown of an armed schedule disarms it where it stood at 1. -/
theorem schedFire_schedActive {s : State} (harmed : s.sch.schedActive = true) :
    (schedFire s).sch.schedActive = decide (s.sch.schedCount ≠ 1) := by
  show (s.sch.schedActive && s.sch.schedCount - 1 != 0) = decide (s.sch.schedCount ≠ 1)
  rw [harmed, Bool.true_and, Bool.eq_iff_iff, bne_iff_ne, decide_eq_true_iff]
  exact not_congr BitVec.sub_eq_iff_eq_add

theorem schedFire_eq {s : State} (harmed : s.sch.schedActive = true) :
    schedFire s = (issueStep s.sch.schedDir s.cfg.schedUpdateDesired s).withSch
      { (issueStep s.sch.schedDir s.cfg.schedUpdateDesired s).sch with
        schedCount := s.sch.schedCount - 1, schedActive := decide (s.sch.schedCount ≠ 1) } := by
  rw [← schedFire_schedActive harmed]
  rfl

/-- Settles O58. -/
theorem stepEvents : Obligations.StepEvents := by
  intro s hroom
  have h : s.csCount ≠ 255 := hroom.ne_full
  refine ⟨execEvFine_of_armed h, execEvFine_of_disarmed h, ?_, fun hpresent harmed => ⟨_, rfl, ?_⟩, execEvSched_of_disarmed h⟩
  · rw [← dirInt_dirIn]
    exact execEvStepedge_eq h
  · exact (execEvSched_of_armed h hpresent harmed).trans (congrArg _ (schedFire_eq harmed))

/-! ### The PID policy (R240, R241) -/

/-- `PidStep` where the output of the law fits: its memory is kept and the fine timer set. -/
theorem pidStep_of_fits {e : Int} {s : State} {out : Fx} {i : Int} {kept : BitVec 34}
    (hlaw : pidLaw s.cfg e s.sch.pidInteg.toInt s.sch.pidPrevErr.toInt = (out, i, kept)) (hfits : fxFits s.cfg out = true) :
    pidStep e s = .ok (s.withSch (armFine s.cfg out { s.sch with pidInteg := storeInteg i, pidPrevErr := kept })) := by
  simp only [pidStep, hlaw, fxCheck_of_fits hfits]

theorem pidStep_of_not_fits {e : Int} {s : State} {out : Fx} {i : Int} {kept : BitVec 34}
    (hlaw : pidLaw s.cfg e s.sch.pidInteg.toInt s.sch.pidPrevErr.toInt = (out, i, kept)) (hfits : fxFits s.cfg out = false) :
    pidStep e s = .error .fxOverflow := by
  simp only [pidStep, hlaw, fxCheck_of_not_fits (Bool.not_eq_true _ ▸ hfits)]

/-- Settles O57: the two kinds of law give one triple, on which the rest of `PidStep` works. -/
theorem pidStepRule : Obligations.PidStepRule := by
  intro e s l m prev i out kept stored f
  have hlaw : pidLaw s.cfg e m prev = (out, i, kept) := by
    simp only [out, i, kept, pidLaw]
    cases s.cfg.pidLaw with
    | textbook => rfl
    | other n => rfl
  exact ⟨pidStep_of_fits hlaw, pidStep_of_not_fits hlaw⟩

/-! ### The tick (R236) -/

/-- The motor once label T3 is passed: enabled unless forced. -/
def motorOn (s : State) : State := if s.fm.motorState = .forcedEnabled then s else setMotorState .enabled false s

@[simp] theorem motorOn_sch (s : State) : (motorOn s).sch = s.sch := by
  unfold motorOn
  split_ifs
  · rfl
  · exact setMotorState_sch _ _ s

theorem motorOn_outside (s : State) : SameOutside s (motorOn s) := by
  unfold motorOn
  split_ifs
  · exact .refl s
  · exact setMotorState_outside _ _ s

@[simp] theorem stepError_motorOn (s : State) : stepError (motorOn s) = stepError s := by
  simp [stepError]

/-- The tick's labels T0 and T1 end it with nothing done: not enabled, forced off, or overtemperature. -/
theorem tick_of_blocked {s : State}
    (h : s.sch.tickEnabled = false ∨ s.fm.motorState = .forcedDisabled ∨ s.fm.motorState = .overtemperature) :
    tick s = .ok s := by
  unfold tick
  obtain hoff | hblocked := h
  · rw [if_pos hoff]
  · rw [if_pos hblocked, ite_self]

section
variable {s : State} (hticks : s.sch.tickEnabled = true)
  (hfree : ¬ (s.fm.motorState = .forcedDisabled ∨ s.fm.motorState = .overtemperature))
include hticks hfree

/-- Label T2. -/
theorem tick_of_input_low (hlow : s.env.enableIn = false ∧ s.fm.motorState ≠ .forcedEnabled) :
    tick s = .ok (setStallOut false (setMotorState .disabled false s)) := by
  rw [tick, if_neg (by simp [hticks]), if_neg hfree, if_pos hlow]

/-- Label T3. -/
theorem tick_of_on (hon : ¬ (s.env.enableIn = false ∧ s.fm.motorState ≠ .forcedEnabled)) :
    tick s = tickCorrection (motorOn s) := by
  rw [tick, if_neg (by simp [hticks]), if_neg hfree, if_neg hon]
  rfl

end

/-- Label T4. -/
theorem tickCorrection_of_tolerance {s : State} (h : (stepError s).natAbs ≤ 1) :
    tickCorrection s = .ok (clearStall (disarmFine s)) :=
  if_pos (decide_eq_true h)

/-- Labels T5 and T6. -/
theorem tickCorrection_of_error {s : State} (h : 1 < (stepError s).natAbs) :
    tickCorrection s = (correct (stepError s) s).map (stallEval (stepError s)) :=
  if_neg (by simpa [inTolerance] using h)

theorem correct_of_direct (e : Int) {s : State} (h : s.cfg.correctionPolicy = .direct) :
    correct e s = .ok (issueStep (dirOf e) false s) := by
  rw [correct, h]

theorem correct_of_pid (e : Int) {s : State} (h : s.cfg.correctionPolicy = .pid) : correct e s = pidStep e s := by
  rw [correct, h]

theorem execEvTick_of_ok {s t : State} (h : s.csCount ≠ 255) (ht : tick s = .ok t) : execEvTick s = .next t :=
  handler_of_withCs h (by rw [tick_withCs, ht]; rfl) (tick_outside ht).csCount

theorem execEvTick_of_error {s : State} {f : Fault} (h : s.csCount ≠ 255) (ht : tick s = .error f) :
    execEvTick s = .fault f :=
  handler_fault h (by rw [tick_withCs, ht]; rfl)

/-- Settles O56. -/
theorem tickLabels : Obligations.TickLabels := by
  intro s hroom e on blocked off
  have h : s.csCount ≠ 255 := hroom.ne_full
  have htick (hticks : s.sch.tickEnabled = true) (hfree : ¬ blocked) (hon : ¬ off) : tick s = tickCorrection (motorOn s) :=
    tick_of_on hticks hfree hon
  have hpolicy : (motorOn s).cfg.correctionPolicy = s.cfg.correctionPolicy := by rw [(motorOn_outside s).cfg]
  have he : stepError (motorOn s) = e := stepError_motorOn s
  have herr (hout : 1 < e.natAbs) : tickCorrection (motorOn s) = (correct e (motorOn s)).map (stallEval e) := by
    rw [tickCorrection_of_error (he.symm ▸ hout), he]
  refine ⟨fun hblocked => execEvTick_of_ok h (tick_of_blocked hblocked), fun hticks hfree hlow => ?_,
    fun hticks hfree hon htol => ?_, fun hticks hfree hon hout hdirect => ?_, fun hticks hfree hon hout hpid => ?_⟩
  · refine (execEvTick_of_ok h (tick_of_input_low hticks hfree hlow)).trans ?_
    rw [setStallOut, setMotorState_fm]
    rfl
  · have ht := (htick hticks hfree hon).trans (tickCorrection_of_tolerance (he.symm ▸ htol))
    refine (execEvTick_of_ok h ht).trans ?_
    rw [disarmFine, motorOn_sch]
    rfl
  · refine execEvTick_of_ok h ?_
    rw [htick hticks hfree hon, herr hout, correct_of_direct e (hpolicy.trans hdirect)]
    rfl
  · have hstep : tick s = (pidStep e on).map (stallEval e) := by
      rw [htick hticks hfree hon, herr hout, correct_of_pid e (hpolicy.trans hpid)]
      rfl
    refine ⟨fun t ht => execEvTick_of_ok h ?_, fun f hf => execEvTick_of_error h ?_⟩
    · rw [hstep, ht]; rfl
    · rw [hstep, hf]; rfl

end Sys2Proof.Machine
end

section
/-! SUPPORT. Runs of one event: the firings of a schedule issue its steps one by one, and under the direct policy the ticks walk the
rotor to its tolerance one step at a time (45_correction_scheduler.md R236, R239, R247, R248). -/

namespace Sys2Proof.Machine

open Sys2Proof

/-! ### Runs and the steps of a trace -/

theorem repeatInstr_of_next {i : Instr} {s t : State} (h : exec i s = .next t) (n : Nat) :
    repeatInstr i (n + 1) s = repeatInstr i n t := by
  rw [repeatInstr, h]

/-- An instruction that changes nothing changes nothing however often it is run. -/
theorem repeatInstr_of_idle {i : Instr} {s : State} (h : exec i s = .next s) (n : Nat) : repeatInstr i n s = .next s := by
  induction n with
  | zero => rfl
  | succ n ih => rw [repeatInstr_of_next h, ih]

theorem stepsOf_append (l l' : List TraceItem) : stepsOf (l ++ l') = stepsOf l ++ stepsOf l' := List.filter_append ..

theorem stepsOf_issueStep (dir : Dir) (upd : Bool) (s : State) :
    stepsOf (issueStep dir upd s).trace = stepsOf s.trace ++ [.step dir false upd] :=
  stepsOf_append _ _

theorem stepsOf_respond (s : State) (k : Status) (d : Long) : stepsOf (s.respond k d).trace = stepsOf s.trace :=
  (stepsOf_append _ _).trans (List.append_nil _)

theorem stepsOf_setMotorState (st : MotorState) (clr : Bool) (s : State) :
    stepsOf (setMotorState st clr s).trace = stepsOf s.trace := by
  unfold setMotorState
  split_ifs
  · exact (stepsOf_append _ _).trans (List.append_nil _)
  · rfl

theorem stepsOf_motorOn (s : State) : stepsOf (motorOn s).trace = stepsOf s.trace := by
  unfold motorOn
  split_ifs
  · rfl
  · exact stepsOf_setMotorState _ _ s

/-- A step is an addition of its direction modulo `2^32` (R231). -/
theorem stepped_eq_add (pos : U32) (dir : Dir) : stepped pos dir = pos + BitVec.ofInt 32 (dirInt dir) := by
  rw [stepped, wrap32, BitVec.ofInt_add, BitVec.ofInt_toInt]

/-! ### The firings of a schedule (R247, R248) -/

/-- The scheduler is present and armed exactly while there are steps to issue. -/
structure Scheduling (s : State) : Prop where
  room : s.csCount ≠ 255
  present : s.cfg.schedPresent = true
  armed : s.sch.schedActive = decide (0 < s.sch.schedCount.toNat)

theorem Scheduling.schedFire {s : State} (h : Scheduling s) (hcount : 0 < s.sch.schedCount.toNat) :
    Scheduling (schedFire s) where
  room := h.room
  present := h.present
  armed := by
    have harmed : s.sch.schedActive = true := by rw [h.armed, decide_eq_true hcount]
    rw [schedFire_schedActive harmed, decide_eq_decide]
    show s.sch.schedCount ≠ 1 ↔ 0 < (s.sch.schedCount - 1).toNat
    bv_omega

theorem Scheduling.exec_of_count {s : State} (h : Scheduling s) (hcount : 0 < s.sch.schedCount.toNat) :
    exec .evSched s = .next (Machine.schedFire s) :=
  execEvSched_of_armed h.room h.present (by rw [h.armed, decide_eq_true hcount])

theorem Scheduling.exec_of_done {s : State} (h : Scheduling s) (hdone : s.sch.schedCount.toNat = 0) :
    exec .evSched s = .next s :=
  execEvSched_of_disarmed h.room (.inr (by simp [h.armed, hdone]))

theorem schedFire_schedCount_toNat {s : State} (hcount : 0 < s.sch.schedCount.toNat) :
    (schedFire s).sch.schedCount.toNat = s.sch.schedCount.toNat - 1 := by
  show (s.sch.schedCount - 1).toNat = _
  bv_omega

/-- What `n` issued steps of the schedule of `s` have made of the trace and the position. -/
structure HasIssued (n : Nat) (s t : State) : Prop where
  steps : stepsOf t.trace =
    stepsOf s.trace ++ List.replicate n (.step s.sch.schedDir false s.cfg.schedUpdateDesired)
  position : t.sch.currentStep = s.sch.currentStep + BitVec.ofInt 32 (dirInt s.sch.schedDir * n)

theorem HasIssued.none (s : State) : HasIssued 0 s s := ⟨by simp, by simp⟩

/-- A firing and then `n` more steps are `n + 1` steps. -/
theorem HasIssued.after_schedFire {n : Nat} {s t : State} (h : HasIssued n (schedFire s) t) : HasIssued (n + 1) s t where
  steps := by
    rw [h.steps, List.replicate_succ, ← List.singleton_append, ← List.append_assoc]
    exact congrArg (· ++ _) (stepsOf_issueStep s.sch.schedDir s.cfg.schedUpdateDesired s)
  position := by
    have hfire : (schedFire s).sch.currentStep = s.sch.currentStep + BitVec.ofInt 32 (dirInt s.sch.schedDir) :=
      stepped_eq_add _ _
    have hdist : dirInt s.sch.schedDir * ((n + 1 : Nat) : Int) = dirInt s.sch.schedDir + dirInt s.sch.schedDir * n := by
      rw [Nat.cast_succ]
      ring
    rw [h.position, hfire, hdist, BitVec.ofInt_add, BitVec.add_assoc]
    rfl

/-- `k` firings issue a step each until the count is spent, and then nothing. -/
theorem Scheduling.firings {s : State} (h : Scheduling s) (k : Nat) : ∃ t, repeatInstr .evSched k s = .next t ∧
    Scheduling t ∧ t.sch.schedCount.toNat = s.sch.schedCount.toNat - k ∧ HasIssued (min k s.sch.schedCount.toNat) s t := by
  induction k generalizing s with
  | zero => exact ⟨s, rfl, h, rfl, by simpa using HasIssued.none s⟩
  | succ k ih =>
    obtain hdone | hcount := Nat.eq_zero_or_pos s.sch.schedCount.toNat
    · exact ⟨s, repeatInstr_of_idle (h.exec_of_done hdone) _, h, by omega, by simpa [hdone] using HasIssued.none s⟩
    · obtain ⟨t, hrun, ht, hleft, hissued⟩ := ih (h.schedFire hcount)
      have hn := schedFire_schedCount_toNat hcount
      have hmin : min k (s.sch.schedCount.toNat - 1) + 1 = min (k + 1) s.sch.schedCount.toNat := by omega
      rw [hn] at hleft hissued
      exact ⟨t, (repeatInstr_of_next (h.exec_of_count hcount) k).trans hrun, ht, by omega, hmin ▸ hissued.after_schedFire⟩

/-- Settles O59, by induction on the number of firings from the state `SCHED` leaves. -/
theorem scheduleIssuesExactCount : Obligations.ScheduleIssuesExactCount := by
  intro dir rate count k s hroom hpresent hrate
  obtain ⟨t, hrun, ht, hleft, hissued⟩ :=
    Scheduling.firings (s := (scheduled dir rate count s).respond .ok 0) ⟨hroom.ne_full, hpresent, rfl⟩ k
  refine ⟨_, t, execSched_of_armable dir count hroom.ne_full hpresent hrate, hrun, ?_, hleft, ?_, hissued.position⟩
  · exact hissued.steps.trans (congrArg (· ++ _) (stepsOf_respond _ _ _))
  · have hleft' : t.sch.schedCount.toNat = count.toNat - k := hleft
    rw [ht.armed, decide_eq_decide, hleft']
    omega

/-! ### The ticks of the direct policy (R236, R239) -/

/-- The ticks correct: enabled under the direct policy, the enable input asserted, the motor neither forced off nor too hot. -/
structure Correcting (s : State) : Prop where
  room : s.csCount ≠ 255
  direct : s.cfg.correctionPolicy = .direct
  ticks : s.sch.tickEnabled = true
  enabled : s.env.enableIn = true
  free : ¬ (s.fm.motorState = .forcedDisabled ∨ s.fm.motorState = .overtemperature)

/-- The state after a tick of the direct policy that finds an error. -/
def corrected (s : State) : State := stallEval (stepError s) (issueStep (dirOf (stepError s)) false (motorOn s))

theorem motorOn_free {s : State} (h : ¬ (s.fm.motorState = .forcedDisabled ∨ s.fm.motorState = .overtemperature)) :
    ¬ ((motorOn s).fm.motorState = .forcedDisabled ∨ (motorOn s).fm.motorState = .overtemperature) := by
  unfold motorOn
  split_ifs
  · exact h
  · simp

theorem corrected_sch (s : State) : (corrected s).sch =
    { s.sch with currentStep := stepped s.sch.currentStep (dirOf (stepError s)) } := by
  show { (motorOn s).sch with currentStep := stepped (motorOn s).sch.currentStep (dirOf (stepError s)) } = _
  rw [motorOn_sch]

theorem stepsOf_corrected (s : State) :
    stepsOf (corrected s).trace = stepsOf s.trace ++ [.step (dirOf (stepError s)) false false] :=
  (stepsOf_issueStep _ _ _).trans (congrArg (· ++ _) (stepsOf_motorOn s))

theorem Correcting.corrected {s : State} (h : Correcting s) : Correcting (corrected s) := by
  have hout : SameOutside s (Machine.corrected s) :=
    ((motorOn_outside s).trans (issueStep_outside _ _ _)).trans (stallEval_outside _ _)
  refine ⟨hout.csCount ▸ h.room, hout.cfg ▸ h.direct, ?_, hout.env ▸ h.enabled, motorOn_free h.free⟩
  rw [corrected_sch]
  exact h.ticks

theorem Correcting.exec_of_error {s : State} (h : Correcting s) (hout : 1 < (stepError s).natAbs) :
    exec .evTick s = .next (Machine.corrected s) := by
  refine execEvTick_of_ok h.room ?_
  rw [tick_of_on h.ticks h.free (by simp [h.enabled]), tickCorrection_of_error (by simpa using hout), stepError_motorOn,
    correct_of_direct _ ((motorOn_outside s).cfg ▸ h.direct)]
  rfl

/-- A step in the sign of the error stays between the two positions, so it does not wrap: the error moves by one towards 0. -/
theorem stepError_corrected {s : State} (h : stepError s ≠ 0) :
    stepError (corrected s) = stepError s - dirInt (dirOf (stepError s)) := by
  have hlow := BitVec.le_toInt s.sch.desiredStep
  have hhigh := BitVec.toInt_lt (x := s.sch.desiredStep)
  have hlow' := BitVec.le_toInt s.sch.currentStep
  have hhigh' := BitVec.toInt_lt (x := s.sch.currentStep)
  have hexact : (stepped s.sch.currentStep (dirOf (stepError s))).toInt =
      s.sch.currentStep.toInt + dirInt (dirOf (stepError s)) := by
    rw [stepped, wrap32, BitVec.toInt_ofInt]
    unfold dirOf stepError at *
    split_ifs <;> simp only [dirInt] <;> exact Int.bmod_eq_of_le (by omega) (by omega)
  rw [stepError, corrected_sch]
  show s.sch.desiredStep.toInt - (stepped s.sch.currentStep (dirOf (stepError s))).toInt = _
  rw [hexact]
  exact sub_add_eq_sub_sub _ _ _

/-- An error above 1 keeps its sign and loses 1 in size. -/
theorem error_towards_zero {e : Int} (h : 1 < e.natAbs) :
    (e - dirInt (dirOf e)).natAbs = e.natAbs - 1 ∧ dirOf (e - dirInt (dirOf e)) = dirOf e := by
  by_cases hneg : e < 0
  · rw [show dirOf e = .minus from if_pos hneg, dirInt]
    exact ⟨by omega, if_pos (by omega)⟩
  · rw [show dirOf e = .plus from if_neg hneg, dirInt]
    exact ⟨by omega, if_neg (by omega)⟩

/-- `k` ticks, for a `k` below the error, are `k` steps in its sign. -/
theorem Correcting.ticks_shrink_error {s : State} (h : Correcting s) {k : Nat} (hk : k ≤ (stepError s).natAbs - 1) :
    ∃ t, repeatInstr .evTick k s = .next t ∧ t.sch.desiredStep = s.sch.desiredStep ∧
      (stepError t).natAbs = (stepError s).natAbs - k ∧
      stepsOf t.trace = stepsOf s.trace ++ List.replicate k (.step (dirOf (stepError s)) false false) := by
  induction k generalizing s with
  | zero => exact ⟨s, rfl, rfl, rfl, by simp⟩
  | succ k ih =>
    have hout : 1 < (stepError s).natAbs := by omega
    have herr : stepError (Machine.corrected s) = _ := stepError_corrected (by omega)
    obtain ⟨hsize, hsign⟩ := error_towards_zero hout
    rw [← herr] at hsize hsign
    obtain ⟨t, hrun, hdes, habs, hsteps⟩ := ih h.corrected (by omega)
    refine ⟨t, (repeatInstr_of_next (h.exec_of_error hout) k).trans hrun, ?_, by omega, ?_⟩
    · rw [hdes, corrected_sch]
    · rw [hsteps, hsign, stepsOf_corrected, List.append_assoc, List.singleton_append, ← List.replicate_succ]

/-- Settles O60, by induction on the number of ticks. -/
theorem directTicksReachTolerance : Obligations.DirectTicksReachTolerance := by
  intro s k hroom hdirect hticks henabled hforced hhot hk
  have h : Correcting s := ⟨hroom.ne_full, hdirect, hticks, henabled, not_or.mpr ⟨hforced, hhot⟩⟩
  obtain ⟨t, hrun, hdes, habs, hsteps⟩ := h.ticks_shrink_error hk
  refine ⟨t, hrun, hdes, habs, hsteps, fun hlast => decide_eq_true ?_⟩
  omega

end Sys2Proof.Machine
end

section
/-! SUPPORT. Which component an instruction may write: the control side, that is the events and the commands of the scheduler and the
fault monitor, leaves the estimator's side alone, and every other instruction leaves the scheduler alone
(10_state.md R23 to R28, 43_motion_estimator.md R195, 45_correction_scheduler.md R230). -/

namespace Sys2Proof.Machine

open Sys2Proof

/-- The events and the commands of the scheduler and the fault monitor. -/
def onControlSide : Instr → Bool
  | .evStepedge | .evSched | .evTick | .evFine => true
  | .sched _ _ _ | .setdes _ | .setpos _ | .geterr | .getpos | .cten _ => true
  | .setstate _ _ | .getstate | .setcur _ | .getcur => true
  | _ => false

theorem onControlSide_of_isEvent {i : Instr} (h : isEvent i = true) : onControlSide i = true := by
  cases i with
  | evStepedge | evSched | evTick | evFine => rfl
  | _ => cases h

/-! ### The control side leaves the estimator's side alone -/

/-- A command or a handler whose body stays inside its component: so does the whole, the depth being as before at its end. -/
theorem SameOutside.leave {s u : State} (h : SameOutside (s.withCs (s.csCount + 1)) u) :
    SameOutside s (u.withCs (u.csCount - 1)) :=
  ⟨h.cfg, by rw [State.withCs_csCount, h.csCount]; exact succ_pred_depth _, h.est, h.ma, h.cache, h.txb, h.bus, h.pending,
    h.busy, h.env⟩

theorem SameOutside.respond {s t : State} (h : SameOutside s t) (k : Status) (d : Long) : SameOutside s (t.respond k d) :=
  ⟨h.cfg, h.csCount, h.est, h.ma, h.cache, h.txb, h.bus, h.pending, h.busy, h.env⟩

theorem withSch_outside (s : State) (x : SchedRegs) : SameOutside s (s.withSch x) :=
  ⟨rfl, rfl, rfl, rfl, rfl, rfl, rfl, rfl, rfl, rfl⟩

/-- A command whose body cannot fail. -/
theorem command_ok_outside {reply : State → Reply} {next : State → State} {s t : State}
    (h : command (fun s1 => .ok (reply s1, next s1)) s = .next t) (hn : ∀ s1, SameOutside s1 (next s1)) : SameOutside s t := by
  obtain ⟨-, r, u, hu, -, rfl⟩ := command_next_iff.mp h
  cases hu
  exact (hn _).leave.respond _ _

theorem handler_outside {body : State → Except Fault State} {s t : State} (h : handler body s = .next t)
    (hb : ∀ s1 u, body s1 = .ok u → SameOutside s1 u) : SameOutside s t := by
  obtain ⟨-, u, hu, -, rfl⟩ := handler_next_iff.mp h
  exact (hb _ u hu).leave

theorem execSched_outside {dir : Dir} {rate : Word} {n : U32} {s t : State} (h : execSched dir rate n s = .next t) :
    SameOutside s t := by
  unfold execSched at h
  split_ifs at h
  · cases h; exact (SameOutside.refl s).respond _ _
  · cases h; exact (SameOutside.refl s).respond _ _
  · exact command_ok_outside h fun s1 => withSch_outside s1 _

theorem execEvFine_outside {s t : State} (h : execEvFine s = .next t) : SameOutside s t := by
  refine handler_outside h fun s1 u hb => ?_
  cases hb
  split_ifs
  · exact issueStep_outside _ _ s1
  · exact .refl s1

theorem execEvSched_outside {s t : State} (h : execEvSched s = .next t) : SameOutside s t := by
  refine handler_outside h fun s1 u hb => ?_
  cases hb
  split_ifs
  · exact schedFire_outside s1
  · exact .refl s1

/-- An instruction of the control side leaves the estimator, the filters, the cache, the buffer, the transport and the inputs alone. -/
theorem exec_outside_of_controlSide {i : Instr} {s t : State} (hi : onControlSide i = true) (h : exec i s = .next t) :
    SameOutside s t := by
  cases i with
  | evStepedge => exact handler_outside h (by rintro s1 u ⟨⟩; exact withSch_outside s1 _)
  | evSched => exact execEvSched_outside h
  | evTick => exact handler_outside h fun _ _ => tick_outside
  | evFine => exact execEvFine_outside h
  | sched => exact execSched_outside h
  | setdes | setpos | cten => exact command_ok_outside h fun s1 => withSch_outside s1 _
  | geterr | getpos | getstate | getcur => exact command_ok_outside h .refl
  | setstate => exact command_ok_outside h (applySetState_outside _ _)
  | setcur => exact command_ok_outside h fun _ => ⟨rfl, rfl, rfl, rfl, rfl, rfl, rfl, rfl, rfl, rfl⟩
  | _ => cases hi

/-! ### The other instructions leave the scheduler alone -/

/-- Where the outcome is a next state, the scheduler is as it was at `s`. -/
def KeepsScheduler (s : State) (o : Host.Outcome State Fault Refusal) : Prop := ∀ t, o = .next t → t.sch = s.sch

theorem refuseCommand_keepsScheduler (k : Status) (s : State) : KeepsScheduler s (refuseCommand k s) := by
  rintro t ⟨⟩
  rfl

theorem command_keepsScheduler {body : State → Except Fault (Reply × State)}
    (hb : ∀ s1 r u, body s1 = .ok (r, u) → u.sch = s1.sch) (s : State) : KeepsScheduler s (command body s) := by
  intro t h
  obtain ⟨-, r, u, hu, -, rfl⟩ := command_next_iff.mp h
  exact (hb _ r u hu :)

/-- A command whose body cannot fail. -/
theorem command_ok_keepsScheduler {reply : State → Reply} {next : State → State} (hn : ∀ s1, (next s1).sch = s1.sch)
    (s : State) : KeepsScheduler s (command (fun s1 => .ok (reply s1, next s1)) s) :=
  command_keepsScheduler (by rintro s1 r u ⟨⟩; exact hn s1) s

theorem ite_keepsScheduler {p : Prop} [Decidable p] {s : State} {o o' : Host.Outcome State Fault Refusal}
    (h : KeepsScheduler s o) (h' : KeepsScheduler s o') : KeepsScheduler s (if p then o else o') := by
  split_ifs
  · exact h
  · exact h'

theorem startCommand_keepsScheduler (op : EstOp) (s : State) : KeepsScheduler s (startCommand op s) := by
  intro t h
  obtain ⟨n, hstep⟩ := startCommand_estimatorStep h
  cases hstep with
  | waits p hread => exact hread.sch
  | exhausted n k data hread => exact hread.sch
  | finished n hread hf => exact (finishOp_noOtherWork hf).sch.trans hread.sch

theorem execCsenter_keepsScheduler (s : State) : KeepsScheduler s (execCsenter s) := by
  intro t h
  by_cases hfull : s.csCount = 255
  · rw [execCsenter_of_full hfull] at h; cases h
  · rw [execCsenter_of_room hfull] at h; cases h; rfl

theorem execCsexit_keepsScheduler (s : State) : KeepsScheduler s (execCsexit s) := by
  intro t h
  by_cases hnone : s.csCount = 0
  · rw [execCsexit_of_none hnone] at h; cases h
  · rw [execCsexit_of_held hnone] at h; cases h; rfl

theorem execMaadd_keepsScheduler (ch : Chan) (x : U32) (s : State) : KeepsScheduler s (execMaadd ch x s) := by
  refine command_keepsScheduler (fun s1 r u hb => ?_) s
  split at hb
  next => cases hb
  next hm => cases hb; obtain ⟨b, rfl⟩ := maAdd_moves_filters hm; rfl

theorem execGetbf_keepsScheduler (idx : Byte) (s : State) : KeepsScheduler s (execGetbf idx s) := by
  unfold execGetbf
  split
  · exact refuseCommand_keepsScheduler _ s
  · exact command_keepsScheduler (fun _ _ _ hb => (getField_sameCore hb).sch) s

theorem execSetbf_keepsScheduler (idx : Byte) (v : Word) (s : State) : KeepsScheduler s (execSetbf idx v s) := by
  unfold execSetbf
  split
  · exact refuseCommand_keepsScheduler _ s
  · exact command_keepsScheduler (fun _ _ _ hb => (setField_sameCore hb).sch) s

theorem execSpeed_keepsScheduler (s : State) : KeepsScheduler s (execSpeed s) := by
  unfold execSpeed
  split
  · exact startCommand_keepsScheduler _ s
  · exact startCommand_keepsScheduler _ s

theorem exec_keepsScheduler {i : Instr} (hi : onControlSide i = false) (s : State) : KeepsScheduler s (exec i s) := by
  cases i with
  | csenter => exact execCsenter_keepsScheduler s
  | csexit => exact execCsexit_keepsScheduler s
  | maadd => exact execMaadd_keepsScheduler _ _ s
  | rdreg => exact command_keepsScheduler (fun _ _ _ hb => (readBody_sameCore hb).sch) s
  | rdburst =>
    exact ite_keepsScheduler (refuseCommand_keepsScheduler _ s)
      (command_keepsScheduler (fun _ _ _ hb => (readBody_sameCore hb).sch) s)
  | wrreg => exact command_ok_keepsScheduler (fun s1 => (memWrite_sameCore _ _ s1).sch) s
  | getbf => exact execGetbf_keepsScheduler _ s
  | setbf => exact execSetbf_keepsScheduler _ _ s
  | valsafe => exact command_ok_keepsScheduler (fun s1 => (validateAndReset_sameCore s1).sch) s
  | sreset => exact command_ok_keepsScheduler (fun s1 => (safetyReset_sameCore s1).sch) s
  | macfg | txbld => exact ite_keepsScheduler (command_ok_keepsScheduler (fun _ => by rfl) s) (refuseCommand_keepsScheduler _ s)
  | speed => exact execSpeed_keepsScheduler s
  | temp => exact ite_keepsScheduler (fun t ht => by cases ht) (startCommand_keepsScheduler _ s)
  | angle | arev | aangle | accel | zero => exact startCommand_keepsScheduler _ s
  | maval | txbrd | setofs => exact command_ok_keepsScheduler (fun _ => by rfl) s
  | _ => cases hi

/-! ### The moves of the two positions -/

/-- An instruction may take the scheduler from registers `a` to registers `b`, as far as the two positions go (R230, R231). -/
inductive PositionMove : Instr → SchedRegs → SchedRegs → Prop
  | stays {i : Instr} {a b : SchedRegs} (hdes : b.desiredStep = a.desiredStep) (hcur : b.currentStep = a.currentStep) :
      PositionMove i a b
  | setsDesired {p : U32} {a b : SchedRegs} (hcur : b.currentStep = a.currentStep) : PositionMove (.setdes p) a b
  | setsCurrent {p : U32} {a b : SchedRegs} (hdes : b.desiredStep = a.desiredStep) : PositionMove (.setpos p) a b
  | edge {a b : SchedRegs} (hcur : b.currentStep = a.currentStep) : PositionMove .evStepedge a b
  | ticks {a b : SchedRegs} (hdes : b.desiredStep = a.desiredStep) : PositionMove .evTick a b
  | fineSteps {a b : SchedRegs} (hdes : b.desiredStep = a.desiredStep) : PositionMove .evFine a b
  | fires {a b : SchedRegs} : PositionMove .evSched a b

theorem PositionMove.moves_desired {i : Instr} {a b : SchedRegs} (h : PositionMove i a b)
    (hne : b.desiredStep ≠ a.desiredStep) : (∃ p, i = .setdes p) ∨ i = .evStepedge ∨ i = .evSched := by
  cases h with
  | setsDesired => exact .inl ⟨_, rfl⟩
  | edge => exact .inr (.inl rfl)
  | fires => exact .inr (.inr rfl)
  | stays hdes | setsCurrent hdes | ticks hdes | fineSteps hdes => exact absurd hdes hne

theorem PositionMove.moves_current {i : Instr} {a b : SchedRegs} (h : PositionMove i a b)
    (hne : b.currentStep ≠ a.currentStep) : (∃ p, i = .setpos p) ∨ i = .evTick ∨ i = .evFine ∨ i = .evSched := by
  cases h with
  | setsCurrent => exact .inl ⟨_, rfl⟩
  | ticks => exact .inr (.inl rfl)
  | fineSteps => exact .inr (.inr (.inl rfl))
  | fires => exact .inr (.inr (.inr rfl))
  | stays _ hcur | setsDesired hcur | edge hcur => exact absurd hcur hne

theorem armFine_desiredStep (c : Cfg) (out : Fx) (r : SchedRegs) : (armFine c out r).desiredStep = r.desiredStep := by
  unfold armFine
  dsimp only
  split_ifs <;> rfl

theorem correct_desiredStep {e : Int} {s t : State} (h : correct e s = .ok t) : t.sch.desiredStep = s.sch.desiredStep := by
  unfold correct at h
  split at h
  next => cases h; rfl
  next => obtain ⟨-, rfl⟩ := pidStep_ok_iff.mp h; exact armFine_desiredStep _ _ _

theorem tickCorrection_desiredStep {s t : State} (h : tickCorrection s = .ok t) : t.sch.desiredStep = s.sch.desiredStep := by
  unfold tickCorrection at h
  dsimp only at h
  split_ifs at h
  · cases h; rfl
  · cases hc : correct (stepError s) s with
    | error f => rw [hc] at h; cases h
    | ok u => rw [hc] at h; cases h; exact (correct_desiredStep hc :)

/-- A tick corrects the rotor, never the target (R236). -/
theorem tick_desiredStep {s t : State} (h : tick s = .ok t) : t.sch.desiredStep = s.sch.desiredStep := by
  unfold tick at h
  split_ifs at h
  · cases h; rfl
  · cases h; rfl
  · cases h; simp
  · exact tickCorrection_desiredStep h
  · simpa using tickCorrection_desiredStep h

/-- A command whose body cannot fail leaves the scheduler as its body does. -/
theorem command_ok_sch {reply : State → Reply} {next : State → State} {s t : State}
    (h : command (fun s1 => .ok (reply s1, next s1)) s = .next t) : t.sch = (next (s.withCs (s.csCount + 1))).sch := by
  obtain ⟨-, r, u, hu, -, rfl⟩ := command_next_iff.mp h
  cases hu
  rfl

theorem handler_positionMove {i : Instr} {body : State → Except Fault State} {s t : State} (h : handler body s = .next t)
    (hb : ∀ s1 u, body s1 = .ok u → PositionMove i s1.sch u.sch) : PositionMove i s.sch t.sch := by
  obtain ⟨-, u, hu, -, rfl⟩ := handler_next_iff.mp h
  exact (hb _ u hu :)

theorem execSched_positionMove {dir : Dir} {rate : Word} {n : U32} {s t : State} (h : execSched dir rate n s = .next t) :
    PositionMove (.sched dir rate n) s.sch t.sch := by
  unfold execSched at h
  split_ifs at h
  · cases h; exact .stays rfl rfl
  · cases h; exact .stays rfl rfl
  · rw [command_ok_sch h]; exact .stays rfl rfl

theorem exec_positionMove {i : Instr} {s t : State} (h : exec i s = .next t) : PositionMove i s.sch t.sch := by
  by_cases hi : onControlSide i = true
  · cases i with
    | evStepedge => exact handler_positionMove h (by rintro s1 u ⟨⟩; exact .edge rfl)
    | evSched => exact .fires
    | evTick => exact handler_positionMove h fun _ _ ht => .ticks (tick_desiredStep ht)
    | evFine => exact handler_positionMove h (by rintro s1 u ⟨⟩; exact .fineSteps (by split_ifs <;> rfl))
    | sched => exact execSched_positionMove h
    | setdes => exact .setsDesired (congrArg SchedRegs.currentStep (command_ok_sch h) :)
    | setpos => exact .setsCurrent (congrArg SchedRegs.desiredStep (command_ok_sch h) :)
    | cten | geterr | getpos | getstate | getcur | setcur => have hsch := command_ok_sch h; rw [hsch]; exact .stays rfl rfl
    | setstate =>
      have hsch := (command_ok_sch h).trans (applySetState_sch _ _ _)
      rw [hsch]
      exact .stays rfl rfl
    | _ => cases hi
  · rw [exec_keepsScheduler (Bool.not_eq_true _ ▸ hi) s t h]
    exact .stays rfl rfl

/-! ### The estimator's commands -/

/-- An estimator command that has a next state has started; `TEMP` stops where its divisor is 0 (R181 to R193). -/
theorem startCommand_of_exec {i : Instr} {op : EstOp} {s t : State} (hop : estOpOf s.cfg i = some op)
    (h : exec i s = .next t) : startCommand op s = .next t := by
  cases i <;> cases hop
  case speed =>
    revert h
    simp only [exec, execSpeed]
    cases s.cfg.speedStrategy with
    | finiteDifference => exact id
    | speedRegister => exact id
  case temp =>
    simp only [exec, execTemp] at h
    split_ifs at h
    exact h
  all_goals exact h

theorem startCommand_fm {op : EstOp} {s t : State} (hop : op ≠ .temp) (h : startCommand op s = .next t) : t.fm = s.fm := by
  obtain hfm | ⟨u, v, rev, d, r, hu, hf, hfm⟩ := startCommand_fm_cases h
  · exact hfm
  · rw [hfm, finishOp_fm hop hf, hu]

/-- Settles O48: the positions by the list of their moves, the estimator's commands by what an attempt can do, and the control side by
what its operations leave alone. -/
theorem componentsKeepApart : Obligations.ComponentsKeepApart := by
  intro i s t h
  refine ⟨(exec_positionMove h).moves_desired, (exec_positionMove h).moves_current, fun op hop => ?_, fun hi => ?_⟩
  · have hstart := startCommand_of_exec hop h
    exact ⟨startCommand_keepsScheduler op s t hstart, fun htemp => startCommand_fm htemp hstart⟩
  · have hside : onControlSide i = true := by
      obtain hev | ⟨_, _, _, rfl⟩ | ⟨_, rfl⟩ | ⟨_, rfl⟩ | rfl | rfl | ⟨_, rfl⟩ | ⟨_, _, rfl⟩ | rfl | ⟨_, rfl⟩ | rfl := hi
      · exact onControlSide_of_isEvent hev
      all_goals rfl
    have hout := exec_outside_of_controlSide hside h
    exact ⟨hout.est, hout.ma, hout.cache, hout.txb, hout.bus, hout.env⟩

end Sys2Proof.Machine
end

section
/-! SUPPORT. What a step does where nothing arrives and no command is in flight: the delivery of the pending event of the largest
line, else the acceptance of the word first on the port (60_exceptions.md R262, R267, R268). -/

namespace Sys2Proof.Machine

open Sys2Proof

/-! ### The event lines -/

/-- The line found is the set bit above which no bit is set (R268). -/
theorem topLine_of_highest {v : BitVec 4} {k : Fin 4} (hk : v.getLsbD k.val = true)
    (habove : ∀ j : Fin 4, k < j → v.getLsbD j.val = false) : topLine v = some k := by
  have hclear : ∀ j : Fin 4, k < j → ¬v.getLsbD j.val = true := fun j hj => Bool.eq_false_iff.mp (habove j hj)
  unfold topLine
  match k with
  | 3 => exact if_pos hk
  | 2 => exact (if_neg (hclear 3 (by decide))).trans (if_pos hk)
  | 1 => exact (if_neg (hclear 3 (by decide))).trans <| (if_neg (hclear 2 (by decide))).trans (if_pos hk)
  | 0 =>
    exact (if_neg (hclear 3 (by decide))).trans <| (if_neg (hclear 2 (by decide))).trans <|
      (if_neg (hclear 1 (by decide))).trans (if_pos hk)

theorem getLsbD_lineBit (k j : Fin 4) : (lineBit k).getLsbD j.val = decide (j = k) := by
  have htwo : lineBit k = BitVec.twoPow 4 k.val := rfl
  simp [htwo, Fin.ext_iff, eq_comm]

/-- Delivery clears the bit of the line taken and no other (R267). -/
theorem getLsbD_deliver_pending (s : State) (k j : Fin 4) :
    (deliver k s).pending.getLsbD j.val = (s.pending.getLsbD j.val && decide (j ≠ k)) := by
  rw [deliver, State.withPending_pending, BitVec.getLsbD_and, BitVec.getLsbD_not, getLsbD_lineBit]
  simp

theorem deliverable_of_highest {s : State} {k : Fin 4} (hcs : s.csCount = 0) (hk : s.pending.getLsbD k.val = true)
    (habove : ∀ j : Fin 4, k < j → s.pending.getLsbD j.val = false) : deliverable s = some k := by
  simp [deliverable, State.masked, hcs, topLine_of_highest hk habove]

/-- No event is delivered while the events are masked or none is pending (R267). -/
theorem deliverable_eq_none {s : State} (hno : s.csCount ≠ 0 ∨ s.pending = 0) : deliverable s = none := by
  obtain hmasked | hnone := hno
  · exact if_pos (bne_iff_ne.mpr hmasked)
  · simp [deliverable, hnone, topLine]

/-! ### What comes next where no command is in flight -/

theorem step_of_no_arrival {s : State} (hwf : s.cfg.wf = true) (hm : s.env.moments = []) :
    step s = perform (nextWork s) := by
  simp [step, hwf, hm]

theorem nextWork_of_event {s : State} {k : Fin 4} (hidle : s.busy = none) (hev : deliverable s = some k) :
    nextWork s = (.run (eventOf k), deliver k s) := by
  simp [nextWork, hidle, hev]

theorem nextWork_of_word {s : State} {cw : Long} {rest : List Long} (hidle : s.busy = none) (hev : deliverable s = none)
    (hport : s.env.port = cw :: rest) : nextWork s = acceptWord cw rest s := by
  simp [nextWork, hidle, hev, hport]

theorem acceptWord_of_instr {s : State} {cw : Long} {i : Instr} (rest : List Long) (h : decode s.cfg cw = .instr i) :
    acceptWord cw rest s = (.run i, s.withEnv { s.env with port := rest }) := by
  simp [acceptWord, h]

theorem acceptWord_of_illegalCommand {s : State} {cw : Long} (rest : List Long) (h : decode s.cfg cw = .illegalCommand) :
    acceptWord cw rest s = (.refuse .illegalCommand, s.withEnv { s.env with port := rest }) := by
  simp [acceptWord, h]

theorem acceptWord_of_illegalOperand {s : State} {cw : Long} (rest : List Long) (h : decode s.cfg cw = .illegalOperand) :
    acceptWord cw rest s = (.refuse .illegalOperand, s.withEnv { s.env with port := rest }) := by
  simp [acceptWord, h]

/-- A step accepts the word first on the port where nothing comes before it (R267). -/
theorem step_of_word {s : State} {cw : Long} {rest : List Long} (hwf : s.cfg.wf = true) (hm : s.env.moments = [])
    (hidle : s.busy = none) (hno : s.csCount ≠ 0 ∨ s.pending = 0) (hport : s.env.port = cw :: rest) :
    step s = perform (acceptWord cw rest s) := by
  rw [step_of_no_arrival hwf hm, nextWork_of_word hidle (deliverable_eq_none hno) hport]

/-! ### The three statements -/

/-- Settles O9: the pending bits left are those `deliver` leaves. -/
theorem stepDeliversHighestEvent : Obligations.StepDeliversHighestEvent := by
  intro s k hwf hm hidle hcs hk habove
  refine ⟨(deliver k s).pending, getLsbD_deliver_pending s k, ?_⟩
  rw [step_of_no_arrival hwf hm, nextWork_of_event hidle (deliverable_of_highest hcs hk habove)]
  rfl

/-- Settles O7. -/
theorem stepRunsDecodedCommand : Obligations.StepRunsDecodedCommand := by
  intro s cw rest i hwf hm hidle hno hport hdec
  rw [step_of_word hwf hm hidle hno hport, acceptWord_of_instr rest hdec]
  rfl

/-- Settles O10: a refusal is performed as its response alone, at the state with the word off the port. -/
theorem refusedWordOnlyResponds : Obligations.RefusedWordOnlyResponds := by
  refine ⟨rfl, rfl, fun s cw rest hwf hm hidle hno hport => ?_⟩
  rw [step_of_word hwf hm hidle hno hport]
  refine ⟨fun hdec => ?_, fun hdec => ?_⟩
  · rw [acceptWord_of_illegalCommand rest hdec]; rfl
  · rw [acceptWord_of_illegalOperand rest hdec]; rfl

end Sys2Proof.Machine
end

section
/-! SUPPORT. What a step does where a reset arrives (70_reset_and_hazards.md R290). -/

namespace Sys2Proof.Machine

open Sys2Proof

@[simp] theorem State.resetIn_env (c : Cfg) (e : Env) : (State.resetIn c e).env = e := rfl

@[simp] theorem State.resetIn_lastTime (c : Cfg) (e : Env) : (State.resetIn c e).est.lastTime = e.now := rfl

@[simp] theorem State.resetIn_lastOtTime (c : Cfg) (e : Env) : (State.resetIn c e).fm.lastOtTime = e.now := rfl

@[simp] theorem Env.arrive_now (e : Env) (m : Moment) (rest : List Moment) : (e.arrive m rest).now = m.now := rfl

@[simp] theorem Env.arrive_moments (e : Env) (m : Moment) (rest : List Moment) : (e.arrive m rest).moments = rest := rfl

/-- A step at which a reset arrives is that reset alone: what was in progress is never looked at (R290). -/
theorem step_of_reset {s : State} {m : Moment} {rest : List Moment} (hwf : s.cfg.wf = true)
    (hm : s.env.moments = m :: rest) (hr : m.reset = true) :
    step s = .next (State.resetIn s.cfg (s.env.arrive m rest)) := by
  simp [step, hwf, hm, hr, applyReset]

/-- Settles O12: the reset state is that of the environment the moment leaves, whose `now` both times take. -/
theorem resetAtAnyMoment : Obligations.ResetAtAnyMoment := by
  intro s m rest hwf hm hr
  refine ⟨State.resetIn s.cfg (s.env.arrive m rest), step_of_reset hwf hm hr, ?isReset, ?now, ?moments, ?lastTime, ?lastOtTime⟩
  case isReset => rw [State.resetIn_env]
  case now => rw [State.resetIn_env, Env.arrive_now]
  case moments => rw [State.resetIn_env, Env.arrive_moments]
  case lastTime => rw [State.resetIn_lastTime, Env.arrive_now]
  case lastOtTime => rw [State.resetIn_lastOtTime, Env.arrive_now]

end Sys2Proof.Machine
end
